-- ==== Sys2Proof/Word.lean ====
section
/-! DEFINITION. The words of the core: bytes, command words, bus addresses, cycles and handles
(00_scope.md R9, R14), and the sparse storage type that holds RAM, ROM and colour RAM. -/

namespace Sys2Proof

/-- A data byte of the bus (R9). -/
abbrev Byte := BitVec 8

/-- A word of the command port or of the output stream (30_encoding.md R111, R124). -/
abbrev Word := BitVec 32

/-- An address of the router's space (20_memory.md R70). -/
abbrev Addr := BitVec 16

/-- A cycle value (10_state.md R21). -/
abbrev Cycle := BitVec 64

/-- An event's handle, its submission number (10_state.md R23). -/
abbrev Handle := BitVec 64

/-- Storage of `w`-bit cells by number: a list of (number, value) pairs, in the canonical form that
`Store.wf` (Machine/Ops.lean) states. -/
abbrev Store (w : Nat) := List (Nat × BitVec w)

/-- The largest value of `UInt64` (R14). -/
def maxU64 : Nat := 2 ^ 64 - 1

end Sys2Proof
end

