-- ==== Sys2Proof/Config.lean ====
section
/-! DEFINITION. What is fixed for one machine: the implementation parameters of 00_scope.md R10, the
Bank identifiers of 20_memory.md R77 they may name, and the free value behind the draws of R11. -/

namespace Sys2Proof

/-- The external collaborators behind an external Bank (41_address_space.md R195). -/
inductive ExtBank
  | vic | sid | roml | romh | io1 | io2
  deriving DecidableEq, Repr

/-- The Bank identifiers of 20_memory.md R77. `openBus` is the spec's `OPEN`. -/
inductive Bank
  | ram
  | basic | kernal | char
  | port
  | color
  | openBus
  | cia1 | cia2
  | ext (x : ExtBank)
  deriving DecidableEq, Repr

/-- One entry of a binding table: a Bank, or `IO`, which R81 decodes further (20_memory.md R77). -/
inductive Target
  | bank (b : Bank)
  | io
  deriving DecidableEq, Repr

/-- The bindings of one configuration: an entry per 4KB region, and an entry per page of region 0xD
for when that region is `IO` (20_memory.md R79). -/
structure MapRow where
  regions : List Target
  pages : List Target
  deriving DecidableEq, Repr

/-- A binding table given as a parameter (R10 `PLA_READ`, `PLA_WRITE`): one row per configuration, the
row of mode number `m` at index `m` without a cartridge and `32 + m` with one (10_state.md R33, R34).
DESIGN CHOICE, log 14: an entry that names nothing is a missing list element. -/
abbrev BindingTable := List MapRow

/-- The two clock families (R10); read by no rule (70_reset_and_hazards.md R368). -/
inductive ClockFamily
  | pal | ntsc
  deriving DecidableEq, Repr

/-- The implementation parameters (00_scope.md R10). A `none` table is the default of R80 to R84. -/
structure Params where
  nphase : Nat
  timerPhase : Nat
  timerRate1 : Nat
  timerRate2 : Nat
  romBasic : Store 8
  romKernal : Store 8
  romChar : Store 8
  ramInit : List (Addr × Byte)
  colorInit : List (BitVec 10 × BitVec 4)
  busInit : Byte
  plaRead : Option BindingTable
  plaWrite : Option BindingTable
  clockFamily : ClockFamily
  deriving DecidableEq, Repr

/-- The defaults of R10. The OPEN parameters have no default in the spec: the contents, the bus byte
and the clock family below are the model's. DESIGN CHOICE, unsafe, logs 1 to 5. -/
def Params.default : Params where
  nphase := 2
  timerPhase := 0
  timerRate1 := 1
  timerRate2 := 1
  romBasic := []
  romKernal := []
  romChar := []
  ramInit := []
  colorInit := []
  busInit := 0x00#8
  plaRead := none
  plaWrite := none
  clockFamily := .pal

/-- The free value of draw number `n` (00_scope.md R11), used when no answer of the oracle is ready in
the state. It has no body: nothing can be proved of its value. Safe, log 6. -/
opaque Config.freeByte : Nat → Byte

end Sys2Proof
end

