-- ==== Sys2Proof/Syntax.lean ====
section
/-! DEFINITION. The instructions: one constructor per row of spec/opcode_table.json. The first twelve
are the commands of 30_encoding.md R113, the next four its reserved OPs, and the others the rows of
R126 for the target that a `READ` or a `WRITE` reaches. -/

namespace Sys2Proof

/-- The two timer chips (42_timer.md R267). -/
inductive Chip
  | cia1 | cia2
  deriving DecidableEq, Repr

/-- The two timer units of a chip (10_state.md R35). -/
inductive TimerId
  | a | b
  deriving DecidableEq, Repr

/-- The CPU's interrupt lines (43_interrupts.md R290). -/
inductive Line
  | irq | nmi
  deriving DecidableEq, Repr

/-- The instructions. A row for an access carries the bus address; a chip's row carries the chip too. -/
inductive Instr
  | read (addr : Addr)
  | write (addr : Addr) (data : Byte)
  | schedule (delay : BitVec 64) (phase : BitVec 4) (tag : BitVec 16)
  | cancel (handle : Handle)
  | cycle
  | advance (n : BitVec 28)
  | ret
  | assert (line : Line) (src : BitVec 4) (active : Bool)
  | sample (line : Line)
  | ack
  | setbus (byte : Byte)
  | cart (present exrom game : Bool)
  | reservedOp0 (rest : BitVec 28)
  | reservedOpD (rest : BitVec 28)
  | reservedOpE (rest : BitVec 28)
  | reservedOpF (rest : BitVec 28)
  | readPortDdr
  | readPortData
  | writePortDdr (data : Byte)
  | writePortData (data : Byte)
  | readRam (addr : Addr)
  | writeRam (addr : Addr) (data : Byte)
  | readBasic (addr : Addr)
  | readKernal (addr : Addr)
  | readChar (addr : Addr)
  | writeRom (addr : Addr) (data : Byte)
  | readColor (addr : Addr)
  | writeColor (addr : Addr) (data : Byte)
  | readOpen (addr : Addr)
  | writeOpen (addr : Addr) (data : Byte)
  | readVic (addr : Addr)
  | writeVic (addr : Addr) (data : Byte)
  | readSid (addr : Addr)
  | writeSid (addr : Addr) (data : Byte)
  | readRoml (addr : Addr)
  | writeRoml (addr : Addr) (data : Byte)
  | readRomhA (addr : Addr)
  | readRomhE (addr : Addr)
  | writeRomhE (addr : Addr) (data : Byte)
  | readIo1 (addr : Addr)
  | writeIo1 (addr : Addr) (data : Byte)
  | readIo2 (addr : Addr)
  | writeIo2 (addr : Addr) (data : Byte)
  | readCiaPr (chip : Chip) (addr : Addr)
  | writeCiaPr (chip : Chip) (addr : Addr) (data : Byte)
  | readCiaDdr (chip : Chip) (addr : Addr)
  | writeCiaDdr (chip : Chip) (addr : Addr) (data : Byte)
  | readCiaTlo (chip : Chip) (addr : Addr)
  | writeCiaTlo (chip : Chip) (addr : Addr) (data : Byte)
  | readCiaThi (chip : Chip) (addr : Addr)
  | writeCiaThi (chip : Chip) (addr : Addr) (data : Byte)
  | readCiaTod (chip : Chip) (addr : Addr)
  | writeCiaTod (chip : Chip) (addr : Addr) (data : Byte)
  | readCiaSdr (chip : Chip) (addr : Addr)
  | writeCiaSdr (chip : Chip) (addr : Addr) (data : Byte)
  | readCiaIcr (chip : Chip) (addr : Addr)
  | writeCiaIcr (chip : Chip) (addr : Addr) (data : Byte)
  | readCiaCr (chip : Chip) (addr : Addr)
  | writeCiaCr (chip : Chip) (addr : Addr) (data : Byte)
  deriving DecidableEq, Repr

end Sys2Proof
end

