-- ==== Sys2Proof/Machine/Operands.lean ====
section
/-! DEFINITION. Operand fields: how operands are taken from command words (30_encoding.md R123), and
the parts of a bus address and of a 16-bit register that the Banks use. -/

namespace Sys2Proof

/-! ## Fields of a command's words (R114 to R123) -/

/-- `OP = w[31:28]` (R111). -/
def opField (w : Word) : BitVec 4 := w.extractLsb' 28 4

/-- `w[27:0]`: the count of `ADVANCE` (R118), and all a reserved OP leaves (R122). -/
def restField (w : Word) : BitVec 28 := w.extractLsb' 0 28

/-- `addr = w[15:0]` (R114); also `tag` (R115). -/
def addrField (w : Word) : BitVec 16 := w.extractLsb' 0 16

/-- `data = w[23:16]` (R114). -/
def dataField (w : Word) : Byte := w.extractLsb' 16 8

/-- `phase = w[27:24]` (R115). -/
def phaseField (w : Word) : BitVec 4 := w.extractLsb' 24 4

/-- `active = w[12]` (R119). -/
def activeField (w : Word) : Bool := w.getLsbD 12

/-- `line = w[8]`: 0 IRQ, 1 NMI (R119). -/
def lineField (w : Word) : Line := if w.getLsbD 8 then .nmi else .irq

/-- `src = w[3:0]` (R119). -/
def srcField (w : Word) : BitVec 4 := w.extractLsb' 0 4

/-- `byte = w[7:0]` (R120). -/
def byteField (w : Word) : Byte := w.extractLsb' 0 8

/-- `present = w[2]` (R121). -/
def presentField (w : Word) : Bool := w.getLsbD 2

/-- `exrom = w[1]` (R121). -/
def exromField (w : Word) : Bool := w.getLsbD 1

/-- `game = w[0]` (R121). -/
def gameField (w : Word) : Bool := w.getLsbD 0

/-- A 64-bit operand `{x1, x0}`, the low word first (R112). -/
def wideField (x0 x1 : Word) : BitVec 64 := (x1.setWidth 64 <<< 32) ||| x0.setWidth 64

/-- Bits 31:0 of a 64-bit value. -/
def lowWord (v : BitVec 64) : Word := v.extractLsb' 0 32

/-- Bits 63:32 of a 64-bit value. -/
def highWord (v : BitVec 64) : Word := v.extractLsb' 32 32

/-- A field of a word: `v` with its bit 0 at bit `k`. -/
def place {n : Nat} (v : BitVec n) (k : Nat) : Word := v.setWidth 32 <<< k

/-- A one-bit field of a word, at bit `k`. -/
def placeBit (b : Bool) (k : Nat) : Word := place (BitVec.ofBool b) k

/-- The encoding's bit for a line (R119). -/
def lineBit : Line → Bool
  | .irq => false
  | .nmi => true

/-! ## Parts of a bus address (20_memory.md R79 to R81, 41_address_space.md R184, R189) -/

/-- The 4KB region `a[15:12]`. -/
def region (a : Addr) : BitVec 4 := a.extractLsb' 12 4

/-- The page `a[11:8]` of region 0xD. -/
def page (a : Addr) : BitVec 4 := a.extractLsb' 8 4

/-- The register offset `a[3:0]` of a timer chip (10_state.md R36). -/
def chipReg (a : Addr) : BitVec 4 := a.extractLsb' 0 4

/-- The nibble index `a[9:0]` of colour RAM. -/
def colorIndex (a : Addr) : BitVec 10 := a.extractLsb' 0 10

/-- The index `a[12:0]` into an 8KB ROM. -/
def romIndex8K (a : Addr) : BitVec 13 := a.extractLsb' 0 13

/-- The index `a[11:0]` into the 4KB character ROM. -/
def romIndex4K (a : Addr) : BitVec 12 := a.extractLsb' 0 12

/-- Which port of a chip a data or direction register is: `a[0]`, 0 port A, 1 port B (R231). -/
def portSel (a : Addr) : TimerId := if a.getLsbD 0 then .b else .a

/-- Which unit a timer byte register is of: offsets 0x4, 0x5 unit A and 0x6, 0x7 unit B (R230). -/
def timerSel (a : Addr) : TimerId := if a.getLsbD 1 then .b else .a

/-- Which control register an address is: offset 0xE CRA, 0xF CRB (R230). -/
def controlSel (a : Addr) : TimerId := if a.getLsbD 0 then .b else .a

/-! ## Bytes of a 16-bit register (20_memory.md R72) -/

/-- `v[7:0]`. -/
def lowByte (v : BitVec 16) : Byte := v.extractLsb' 0 8

/-- `v[15:8]`. -/
def highByte (v : BitVec 16) : Byte := v.extractLsb' 8 8

/-- `v` with its low byte replaced. -/
def withLowByte (v : BitVec 16) (b : Byte) : BitVec 16 := ((highByte v).setWidth 16 <<< 8) ||| b.setWidth 16

/-- `v` with its high byte replaced. -/
def withHighByte (v : BitVec 16) (b : Byte) : BitVec 16 := (b.setWidth 16 <<< 8) ||| (lowByte v).setWidth 16

/-- Mixes driven and undriven lines: an output line (direction 1) reads the register, an input line
reads the pin (41_address_space.md R186, 42_timer.md R231). -/
def mixLines (data ddr pins : Byte) : Byte := (data &&& ddr) ||| (pins &&& ~~~ddr)

end Sys2Proof
end

