-- ==== Sys2Proof/WellFormed.lean ====
section
/-! DEFINITION. Which instructions the encoding admits: the illegal operand values of
30_encoding.md R122, and for a row of spec/opcode_table.json the addresses its mask and match cover. -/

namespace Sys2Proof

/-- The address agrees with `value` on the bits of `mask`: a row's mask and match, low half. -/
def addrIn (mask value : Addr) (a : Addr) : Bool := a &&& mask == value

/-- The addresses the CPU I/O port takes before the regions (20_memory.md R83). -/
def isPortAddr (a : Addr) : Bool := a == 0x0000#16 || a == 0x0001#16

/-- Bit 8 of a chip register's address names the chip (20_memory.md R81). -/
def chipPage : Chip → Addr
  | .cia1 => 0xDC00#16
  | .cia2 => 0xDD00#16

/-- A chip register's address: its page, and the offset bits of the row. -/
def ciaAddrIn (c : Chip) (mask value : Addr) (a : Addr) : Bool :=
  addrIn (0xFF00#16 ||| mask) (chipPage c ||| value) a

/-- The instruction is one that its encoding admits. -/
def Instr.wf : Instr → Bool
  | .read _ => true
  | .write _ _ => true
  | .schedule _ _ _ => true
  | .cancel _ => true
  | .cycle => true
  | .advance _ => true
  | .ret => true
  | .assert _ src _ => src != 0#4
  | .sample _ => true
  | .ack => true
  | .setbus _ => true
  | .cart present exrom game => present || (exrom && game)
  | .reservedOp0 _ => true
  | .reservedOpD _ => true
  | .reservedOpE _ => true
  | .reservedOpF _ => true
  | .readPortDdr => true
  | .readPortData => true
  | .writePortDdr _ => true
  | .writePortData _ => true
  | .readRam a => !isPortAddr a
  | .writeRam a _ => !isPortAddr a
  | .readBasic a => addrIn 0xE000#16 0xA000#16 a
  | .readKernal a => addrIn 0xE000#16 0xE000#16 a
  | .readChar a => addrIn 0xF000#16 0xD000#16 a
  | .writeRom a _ => !isPortAddr a
  | .readColor a => addrIn 0xFC00#16 0xD800#16 a
  | .writeColor a _ => addrIn 0xFC00#16 0xD800#16 a
  | .readOpen a => !isPortAddr a
  | .writeOpen a _ => !isPortAddr a
  | .readVic a => addrIn 0xFC00#16 0xD000#16 a
  | .writeVic a _ => addrIn 0xFC00#16 0xD000#16 a
  | .readSid a => addrIn 0xFC00#16 0xD400#16 a
  | .writeSid a _ => addrIn 0xFC00#16 0xD400#16 a
  | .readRoml a => addrIn 0xE000#16 0x8000#16 a
  | .writeRoml a _ => addrIn 0xE000#16 0x8000#16 a
  | .readRomhA a => addrIn 0xE000#16 0xA000#16 a
  | .readRomhE a => addrIn 0xE000#16 0xE000#16 a
  | .writeRomhE a _ => addrIn 0xE000#16 0xE000#16 a
  | .readIo1 a => addrIn 0xFF00#16 0xDE00#16 a
  | .writeIo1 a _ => addrIn 0xFF00#16 0xDE00#16 a
  | .readIo2 a => addrIn 0xFF00#16 0xDF00#16 a
  | .writeIo2 a _ => addrIn 0xFF00#16 0xDF00#16 a
  | .readCiaPr c a => ciaAddrIn c 0x000E#16 0x0000#16 a
  | .writeCiaPr c a _ => ciaAddrIn c 0x000E#16 0x0000#16 a
  | .readCiaDdr c a => ciaAddrIn c 0x000E#16 0x0002#16 a
  | .writeCiaDdr c a _ => ciaAddrIn c 0x000E#16 0x0002#16 a
  | .readCiaTlo c a => ciaAddrIn c 0x000D#16 0x0004#16 a
  | .writeCiaTlo c a _ => ciaAddrIn c 0x000D#16 0x0004#16 a
  | .readCiaThi c a => ciaAddrIn c 0x000D#16 0x0005#16 a
  | .writeCiaThi c a _ => ciaAddrIn c 0x000D#16 0x0005#16 a
  | .readCiaTod c a => ciaAddrIn c 0x000C#16 0x0008#16 a
  | .writeCiaTod c a _ => ciaAddrIn c 0x000C#16 0x0008#16 a
  | .readCiaSdr c a => ciaAddrIn c 0x000F#16 0x000C#16 a
  | .writeCiaSdr c a _ => ciaAddrIn c 0x000F#16 0x000C#16 a
  | .readCiaIcr c a => ciaAddrIn c 0x000F#16 0x000D#16 a
  | .writeCiaIcr c a _ => ciaAddrIn c 0x000F#16 0x000D#16 a
  | .readCiaCr c a => ciaAddrIn c 0x000E#16 0x000E#16 a
  | .writeCiaCr c a _ => ciaAddrIn c 0x000E#16 0x000E#16 a

end Sys2Proof
end

