-- ==== Sys2Proof/Machine/Router.lean ====
section
/-! DEFINITION. The address-space router's decode: the PLA inputs and mode number (20_memory.md R78),
the default binding tables (R80 to R83), binding tables given as parameters and their check (R86). -/

namespace Sys2Proof

/-- The cartridge-present signals (10_state.md R32); `exrom` and `game` are active low. -/
structure Cart where
  present : Bool
  exrom : Bool
  game : Bool
  deriving DecidableEq, Repr

/-- Everything the bindings are a function of (20_memory.md R85): the port, the cartridge signals and
the two tables. -/
structure MapConfig where
  portDdr : Byte
  portData : Byte
  cart : Cart
  plaRead : Option BindingTable
  plaWrite : Option BindingTable
  deriving DecidableEq, Repr

/-- The PLA's inputs (R78), and `cart.present`. -/
structure PlaInputs where
  exrom : Bool
  game : Bool
  charen : Bool
  hiram : Bool
  loram : Bool
  present : Bool
  deriving DecidableEq, Repr

/-- The level the PLA sees on port line `i`: the data bit when the line is an output, else 1 (R78). -/
def pinLevel (ddr data : Byte) (i : Nat) : Bool := if ddr.getLsbD i then data.getLsbD i else true

/-- The PLA's inputs in a configuration (R78). -/
def MapConfig.inputs (c : MapConfig) : PlaInputs where
  exrom := c.cart.exrom
  game := c.cart.game
  charen := pinLevel c.portDdr c.portData 2
  hiram := pinLevel c.portDdr c.portData 1
  loram := pinLevel c.portDdr c.portData 0
  present := c.cart.present

/-- The mode number `m = {EXROM, GAME, CHAREN, HIRAM, LORAM}` (R78). -/
def PlaInputs.mode (p : PlaInputs) : Nat :=
  16 * p.exrom.toNat + 8 * p.game.toNat + 4 * p.charen.toNat + 2 * p.hiram.toNat + p.loram.toNat

/-- The Ultimax configuration: EXROM 1 and GAME 0 (R78). -/
def PlaInputs.ultimax (p : PlaInputs) : Bool := p.exrom && !p.game

/-! ## The default tables -/

/-- `PLA_READ(m, r)` (R80). -/
def plaReadDefault (p : PlaInputs) (r : BitVec 4) : Target :=
  let r := r.toNat
  if r = 0 then .bank .ram
  else if r ≤ 7 then (if p.ultimax then .bank .openBus else .bank .ram)
  else if r ≤ 9 then
    (if p.ultimax || (p.loram && p.hiram && !p.exrom) then .bank (.ext .roml) else .bank .ram)
  else if r ≤ 0xB then
    (if p.ultimax then .bank .openBus
     else if p.loram && p.hiram && p.game then .bank .basic
     else if p.hiram && !p.exrom && !p.game then .bank (.ext .romh)
     else .bank .ram)
  else if r = 0xC then (if p.ultimax then .bank .openBus else .bank .ram)
  else if r = 0xD then
    (if p.ultimax then .io
     else if !p.loram && !p.hiram then .bank .ram
     else if p.charen then .io
     else if p.game || p.hiram then .bank .char
     else .bank .ram)
  else (if p.ultimax then .bank (.ext .romh) else if p.hiram then .bank .kernal else .bank .ram)

/-- `PLA_WRITE(m, r)` (R82). `readD` is `PLA_READ(m, 0xD)`, of the read table in force: a table given as
that parameter, else R80's (DEDUCED, log 22). -/
def plaWriteDefault (p : PlaInputs) (readD : Option Target) (r : BitVec 4) : Target :=
  let n := r.toNat
  if n = 0 then .bank .ram
  else if n ≤ 7 then (if p.ultimax then .bank .openBus else .bank .ram)
  else if n ≤ 9 then (if p.ultimax then .bank (.ext .roml) else .bank .ram)
  else if n ≤ 0xC then (if p.ultimax then .bank .openBus else .bank .ram)
  else if n = 0xD then (if readD = some .io then .io else .bank .ram)
  else (if p.ultimax then .bank (.ext .romh) else .bank .ram)

/-- `IO_DECODE(p)` (R81). -/
def ioDecodeDefault (p : PlaInputs) (pg : BitVec 4) : Bank :=
  let n := pg.toNat
  if n ≤ 3 then .ext .vic
  else if n ≤ 7 then .ext .sid
  else if n ≤ 0xB then .color
  else if n = 0xC then .cia1
  else if n = 0xD then .cia2
  else if n = 0xE then (if p.present then .ext .io1 else .openBus)
  else (if p.present then .ext .io2 else .openBus)

/-! ## Tables given as parameters (R10, R86) -/

/-- The index of a configuration's row in a binding table. -/
def PlaInputs.row (p : PlaInputs) : Nat := 32 * p.present.toNat + p.mode

/-- The entry of a table for a region; `none` when it is missing. -/
def BindingTable.region (t : BindingTable) (row : Nat) (r : Nat) : Option Target :=
  match t[row]? with
  | some m => m.regions[r]?
  | none => none

/-- The entry of a table for a page of region 0xD; `none` when it is missing. -/
def BindingTable.page (t : BindingTable) (row : Nat) (pg : Nat) : Option Target :=
  match t[row]? with
  | some m => m.pages[pg]?
  | none => none

/-- An entry that names one Bank of R77 other than `PORT`. -/
def bankEntryValid : Option Target → Bool
  | some (.bank b) => b != .port
  | some .io => false
  | none => false

/-- A region's entry: a Bank other than `PORT`, or `IO` in region 0xD with every page naming a Bank
(R86; that `IO` stands in region 0xD only is DEDUCED from R79 and R81, safe, log 14). -/
def regionEntryValid (t : BindingTable) (row r : Nat) : Bool :=
  match t.region row r with
  | some .io => r == 0xD && (List.range 16).all (fun pg => bankEntryValid (t.page row pg))
  | e => bankEntryValid e

/-- Every entry of a table is valid; the default always is (R86). -/
def tableValid : Option BindingTable → Bool
  | none => true
  | some t => (List.range 64).all fun row => (List.range 16).all fun r => regionEntryValid t row r

/-- The inputs of table row `i`. -/
def PlaInputs.ofRow (i : Nat) : PlaInputs where
  exrom := i.testBit 4
  game := i.testBit 3
  charen := i.testBit 2
  hiram := i.testBit 1
  loram := i.testBit 0
  present := i.testBit 5

/-- The read table's entry for a region. -/
def readRegion (t : Option BindingTable) (p : PlaInputs) (r : BitVec 4) : Option Target :=
  match t with
  | none => some (plaReadDefault p r)
  | some t => t.region p.row r.toNat

/-- The write table's entry for a region. The default table follows the read table in force in region
0xD (R82, log 22). -/
def writeRegion (rt wt : Option BindingTable) (p : PlaInputs) (r : BitVec 4) : Option Target :=
  match wt with
  | none => some (plaWriteDefault p (readRegion rt p 0xD#4) r)
  | some t => t.region p.row r.toNat

/-- A table's entry for a page of `IO`: the default table has R81's, whichever table stands beside it (log
22). -/
def pageEntry (t : Option BindingTable) (p : PlaInputs) (pg : BitVec 4) : Option Target :=
  match t with
  | none => some (.bank (ioDecodeDefault p pg))
  | some t => t.page p.row pg.toNat

/-- Region 0xD is `IO` for reads exactly when it is for writes, in every configuration (R86). -/
def ioAgrees (rt wt : Option BindingTable) : Bool :=
  (List.range 64).all fun row =>
    let p := PlaInputs.ofRow row
    decide (readRegion rt p 0xD#4 = some .io) == decide (writeRegion rt wt p 0xD#4 = some .io)

/-- The check of the binding tables at power-on (R86). -/
def tablesValid (rt wt : Option BindingTable) : Bool :=
  tableValid rt && tableValid wt && ioAgrees rt wt

/-! ## Which Bank an access reaches (41_address_space.md R180, R181) -/

/-- The Bank an entry leads to, with `IO` decoded by the page; `none` for an entry no valid table has. -/
def entryBank (e : Option Target) (pages : Option Target) : Option Bank :=
  match e with
  | some (.bank b) => if b = .port then none else some b
  | some .io =>
    match pages with
    | some (.bank b) => if b = .port then none else some b
    | some .io => none
    | none => none
  | none => none

/-- The Bank a read of `a` reaches. -/
def readBank (c : MapConfig) (a : Addr) : Option Bank :=
  if isPortAddr a then some .port
  else entryBank (readRegion c.plaRead c.inputs (region a)) (pageEntry c.plaRead c.inputs (page a))

/-- The Bank a write of `a` reaches. -/
def writeBank (c : MapConfig) (a : Addr) : Option Bank :=
  if isPortAddr a then some .port
  else entryBank (writeRegion c.plaRead c.plaWrite c.inputs (region a)) (pageEntry c.plaWrite c.inputs (page a))

/-- The configuration at power-on with the default tables: mode 31, no cartridge (10_state.md R48,
70_reset_and_hazards.md R353). -/
def MapConfig.powerOn : MapConfig where
  portDdr := 0x00#8
  portData := 0x00#8
  cart := ⟨false, true, true⟩
  plaRead := none
  plaWrite := none

end Sys2Proof
end

