-- ==== Sys2Proof/Decode.lean ====
section
/-! DEFINITION. Decoding a command in two stages (30_encoding.md R126): the words give a command or a
named rejection; then, for `READ` and `WRITE`, the address and the configuration give the target row.
The encoder and the numbering of spec/opcode_table.json's bits follow. -/

namespace Sys2Proof

/-! ## Words to commands -/

/-- Why words are no command. `incomplete`: a header or an extension word is missing yet (R112). The
others are the illegal encodings of R122. -/
inductive DecodeError
  | incomplete
  | reservedBits
  | ackIrq
  | assertSourceZero
  | cartLines
  deriving DecidableEq, Repr

/-- `SCHEDULE` and `CANCEL` have two extension words, every other OP none (R112). -/
def hasExtension (w : Word) : Bool := opField w == 0x3#4 || opField w == 0x4#4

/-- The words of the first command of a stream, its extension words 0 where it has none, and the rest. -/
structure Fetched where
  w : Word
  x0 : Word
  x1 : Word
  rest : List Word
  deriving DecidableEq, Repr

/-- Takes the first command's words off a stream; `none` while they are not all there (R112). -/
def fetch : List Word → Option Fetched
  | [] => none
  | w :: rest =>
    if hasExtension w then
      match rest with
      | x0 :: x1 :: rest' => some ⟨w, x0, x1, rest'⟩
      | _ => none
    else some ⟨w, 0#32, 0#32, rest⟩

/-- The instruction `i` when the reserved bits of its format (`mask`) are 0, else a rejection (R122). -/
def ifReservedClear (w mask : Word) (i : Except DecodeError Instr) : Except DecodeError Instr :=
  if w &&& mask = 0#32 then i else .error .reservedBits

/-- Decodes a header word and its extension words (R111 to R123). -/
def decodeWords (w x0 x1 : Word) : Except DecodeError Instr :=
  let op := opField w
  if op = 0x0#4 then .ok (.reservedOp0 (restField w))
  else if op = 0x1#4 then ifReservedClear w 0x0FFF0000#32 (.ok (.read (addrField w)))
  else if op = 0x2#4 then ifReservedClear w 0x0F000000#32 (.ok (.write (addrField w) (dataField w)))
  else if op = 0x3#4 then
    ifReservedClear w 0x00FF0000#32 (.ok (.schedule (wideField x0 x1) (phaseField w) (addrField w)))
  else if op = 0x4#4 then ifReservedClear w 0x0FFFFFFF#32 (.ok (.cancel (wideField x0 x1)))
  else if op = 0x5#4 then ifReservedClear w 0x0FFFFFFF#32 (.ok .cycle)
  else if op = 0x6#4 then .ok (.advance (restField w))
  else if op = 0x7#4 then ifReservedClear w 0x0FFFFFFF#32 (.ok .ret)
  else if op = 0x8#4 then
    ifReservedClear w 0x0FFFEEF0#32
      (if srcField w = 0#4 then .error .assertSourceZero
       else .ok (.assert (lineField w) (srcField w) (activeField w)))
  else if op = 0x9#4 then ifReservedClear w 0x0FFFFEFF#32 (.ok (.sample (lineField w)))
  else if op = 0xA#4 then
    ifReservedClear w 0x0FFFFEFF#32 (if lineField w = .nmi then .ok .ack else .error .ackIrq)
  else if op = 0xB#4 then ifReservedClear w 0x0FFFFF00#32 (.ok (.setbus (byteField w)))
  else if op = 0xC#4 then
    ifReservedClear w 0x0FFFFFF8#32
      (if presentField w || (exromField w && gameField w) then
        .ok (.cart (presentField w) (exromField w) (gameField w))
       else .error .cartLines)
  else if op = 0xD#4 then .ok (.reservedOpD (restField w))
  else if op = 0xE#4 then .ok (.reservedOpE (restField w))
  else .ok (.reservedOpF (restField w))

/-- Decodes the first command of a word stream; total, rejecting by name. -/
def decode (ws : List Word) : Except DecodeError (Instr × List Word) :=
  match fetch ws with
  | none => .error .incomplete
  | some f =>
    match decodeWords f.w f.x0 f.x1 with
    | .ok i => .ok (i, f.rest)
    | .error e => .error e

/-! ## The target row of a bus access (R126) -/

/-- A timer chip as a Bank (41_address_space.md R193). -/
def chipBank : Chip → Bank
  | .cia1 => .cia1
  | .cia2 => .cia2

/-- The row of a read of a timer chip register, by its offset (42_timer.md R230). -/
def ciaReadRow (c : Chip) (a : Addr) : Instr :=
  let o := (chipReg a).toNat
  if o ≤ 0x1 then .readCiaPr c a
  else if o ≤ 0x3 then .readCiaDdr c a
  else if o = 0x4 ∨ o = 0x6 then .readCiaTlo c a
  else if o ≤ 0x7 then .readCiaThi c a
  else if o ≤ 0xB then .readCiaTod c a
  else if o = 0xC then .readCiaSdr c a
  else if o = 0xD then .readCiaIcr c a
  else .readCiaCr c a

/-- The row of a write of a timer chip register, by its offset (42_timer.md R230). -/
def ciaWriteRow (c : Chip) (a : Addr) (v : Byte) : Instr :=
  let o := (chipReg a).toNat
  if o ≤ 0x1 then .writeCiaPr c a v
  else if o ≤ 0x3 then .writeCiaDdr c a v
  else if o = 0x4 ∨ o = 0x6 then .writeCiaTlo c a v
  else if o ≤ 0x7 then .writeCiaThi c a v
  else if o ≤ 0xB then .writeCiaTod c a v
  else if o = 0xC then .writeCiaSdr c a v
  else if o = 0xD then .writeCiaIcr c a v
  else .writeCiaCr c a v

/-- The row of a read of an external Bank. ROMH has a row below 0xC000 and one above (the two windows
of 20_memory.md R80). -/
def extReadRow (x : ExtBank) (a : Addr) : Instr :=
  match x with
  | .vic => .readVic a
  | .sid => .readSid a
  | .roml => .readRoml a
  | .romh => if a.toNat < 0xC000 then .readRomhA a else .readRomhE a
  | .io1 => .readIo1 a
  | .io2 => .readIo2 a

/-- The row of a write to an external Bank. -/
def extWriteRow (x : ExtBank) (a : Addr) (v : Byte) : Instr :=
  match x with
  | .vic => .writeVic a v
  | .sid => .writeSid a v
  | .roml => .writeRoml a v
  | .romh => .writeRomhE a v
  | .io1 => .writeIo1 a v
  | .io2 => .writeIo2 a v

/-- The row of a read of `a` that reaches Bank `b`. -/
def readRow (b : Bank) (a : Addr) : Instr :=
  match b with
  | .ram => .readRam a
  | .basic => .readBasic a
  | .kernal => .readKernal a
  | .char => .readChar a
  | .port => if a = 0x0000#16 then .readPortDdr else .readPortData
  | .color => .readColor a
  | .openBus => .readOpen a
  | .cia1 => ciaReadRow .cia1 a
  | .cia2 => ciaReadRow .cia2 a
  | .ext x => extReadRow x a

/-- The row of a write of `v` to `a` that reaches Bank `b`. -/
def writeRow (b : Bank) (a : Addr) (v : Byte) : Instr :=
  match b with
  | .ram => .writeRam a v
  | .basic => .writeRom a v
  | .kernal => .writeRom a v
  | .char => .writeRom a v
  | .port => if a = 0x0000#16 then .writePortDdr v else .writePortData v
  | .color => .writeColor a v
  | .openBus => .writeOpen a v
  | .cia1 => ciaWriteRow .cia1 a v
  | .cia2 => ciaWriteRow .cia2 a v
  | .ext x => extWriteRow x a v

/-- The second stage of R126: the row a `READ` or `WRITE` reaches in configuration `c`; every other
instruction is its own row. A `READ` or `WRITE` whose table entry names no Bank stays itself. -/
def target (c : MapConfig) (i : Instr) : Instr :=
  match i with
  | .read a =>
    match readBank c a with
    | some b => readRow b a
    | none => i
  | .write a v =>
    match writeBank c a with
    | some b => writeRow b a v
    | none => i
  | _ => i

/-- The row's condition in the opcode table: its Bank is the one configuration `c` binds for the row's
direction (R126). `READ` and `WRITE` themselves are never what the second stage leaves where every
entry names a Bank; every other command is what the first stage gave. -/
def rowSelected (c : MapConfig) (i : Instr) : Bool :=
  match i with
  | .read _ => false
  | .write _ _ => false
  | .readPortDdr | .readPortData | .writePortDdr _ | .writePortData _ => true
  | .readRam a => readBank c a == some .ram
  | .readBasic a => readBank c a == some .basic
  | .readKernal a => readBank c a == some .kernal
  | .readChar a => readBank c a == some .char
  | .readColor a => readBank c a == some .color
  | .readOpen a => readBank c a == some .openBus
  | .readVic a => readBank c a == some (.ext .vic)
  | .readSid a => readBank c a == some (.ext .sid)
  | .readRoml a => readBank c a == some (.ext .roml)
  | .readRomhA a | .readRomhE a => readBank c a == some (.ext .romh)
  | .readIo1 a => readBank c a == some (.ext .io1)
  | .readIo2 a => readBank c a == some (.ext .io2)
  | .readCiaPr k a | .readCiaDdr k a | .readCiaTlo k a | .readCiaThi k a => readBank c a == some (chipBank k)
  | .readCiaTod k a | .readCiaSdr k a | .readCiaIcr k a | .readCiaCr k a => readBank c a == some (chipBank k)
  | .writeRam a _ => writeBank c a == some .ram
  | .writeRom a _ => writeBank c a == some .basic || writeBank c a == some .kernal || writeBank c a == some .char
  | .writeColor a _ => writeBank c a == some .color
  | .writeOpen a _ => writeBank c a == some .openBus
  | .writeVic a _ => writeBank c a == some (.ext .vic)
  | .writeSid a _ => writeBank c a == some (.ext .sid)
  | .writeRoml a _ => writeBank c a == some (.ext .roml)
  | .writeRomhE a _ => writeBank c a == some (.ext .romh)
  | .writeIo1 a _ => writeBank c a == some (.ext .io1)
  | .writeIo2 a _ => writeBank c a == some (.ext .io2)
  | .writeCiaPr k a _ | .writeCiaDdr k a _ | .writeCiaTlo k a _ => writeBank c a == some (chipBank k)
  | .writeCiaThi k a _ | .writeCiaTod k a _ | .writeCiaSdr k a _ => writeBank c a == some (chipBank k)
  | .writeCiaIcr k a _ | .writeCiaCr k a _ => writeBank c a == some (chipBank k)
  | .schedule _ _ _ | .cancel _ | .cycle | .advance _ | .ret => true
  | .assert _ _ _ | .sample _ | .ack | .setbus _ | .cart _ _ _ => true
  | .reservedOp0 _ | .reservedOpD _ | .reservedOpE _ | .reservedOpF _ => true

/-! ## The encoder -/

/-- The command whose words an instruction is: a target row is a `READ` or a `WRITE`. -/
def Instr.command (i : Instr) : Instr :=
  match i with
  | .readPortDdr => .read 0x0000#16
  | .readPortData => .read 0x0001#16
  | .writePortDdr v => .write 0x0000#16 v
  | .writePortData v => .write 0x0001#16 v
  | .readRam a | .readBasic a | .readKernal a | .readChar a | .readColor a | .readOpen a => .read a
  | .readVic a | .readSid a | .readRoml a | .readRomhA a | .readRomhE a | .readIo1 a | .readIo2 a => .read a
  | .readCiaPr _ a | .readCiaDdr _ a | .readCiaTlo _ a | .readCiaThi _ a => .read a
  | .readCiaTod _ a | .readCiaSdr _ a | .readCiaIcr _ a | .readCiaCr _ a => .read a
  | .writeRam a v | .writeRom a v | .writeColor a v | .writeOpen a v => .write a v
  | .writeVic a v | .writeSid a v | .writeRoml a v | .writeRomhE a v => .write a v
  | .writeIo1 a v | .writeIo2 a v => .write a v
  | .writeCiaPr _ a v | .writeCiaDdr _ a v | .writeCiaTlo _ a v | .writeCiaThi _ a v => .write a v
  | .writeCiaTod _ a v | .writeCiaSdr _ a v | .writeCiaIcr _ a v | .writeCiaCr _ a v => .write a v
  | .read a => .read a
  | .write a v => .write a v
  | .schedule d p t => .schedule d p t
  | .cancel h => .cancel h
  | .cycle => .cycle
  | .advance n => .advance n
  | .ret => .ret
  | .assert l i b => .assert l i b
  | .sample l => .sample l
  | .ack => .ack
  | .setbus b => .setbus b
  | .cart p e g => .cart p e g
  | .reservedOp0 r => .reservedOp0 r
  | .reservedOpD r => .reservedOpD r
  | .reservedOpE r => .reservedOpE r
  | .reservedOpF r => .reservedOpF r

/-- The instruction is a command or a reserved OP of R113, not a target row. -/
def Instr.isCommand (i : Instr) : Bool := decide (i.command = i)

/-- A header word of format B (R114). -/
def headerB (op : BitVec 4) (data : Byte) (a : Addr) : Word := place op 28 ||| place data 16 ||| place a 0

/-- A header word with nothing but its operation and bits 27:0. -/
def headerN (op : BitVec 4) (rest : BitVec 28) : Word := place op 28 ||| place rest 0

/-- A header word of format S (R115). -/
def headerS (phase : BitVec 4) (tag : BitVec 16) : Word := place 0x3#4 28 ||| place phase 24 ||| place tag 0

/-- A header word of format I (R119). -/
def headerI (op : BitVec 4) (active : Bool) (l : Line) (src : BitVec 4) : Word :=
  place op 28 ||| placeBit active 12 ||| placeBit (lineBit l) 8 ||| place src 0

/-- A header word of format Y (R120). -/
def headerY (b : Byte) : Word := place 0xB#4 28 ||| place b 0

/-- A header word of format K (R121). -/
def headerK (present exrom game : Bool) : Word :=
  place 0xC#4 28 ||| placeBit present 2 ||| placeBit exrom 1 ||| placeBit game 0

/-- The words of a command (R111 to R121). -/
def encodeCommand (i : Instr) : List Word :=
  match i with
  | .read a => [headerB 0x1#4 0#8 a]
  | .write a v => [headerB 0x2#4 v a]
  | .schedule d p t => [headerS p t, lowWord d, highWord d]
  | .cancel h => [headerN 0x4#4 0#28, lowWord h, highWord h]
  | .cycle => [headerN 0x5#4 0#28]
  | .advance n => [headerN 0x6#4 n]
  | .ret => [headerN 0x7#4 0#28]
  | .assert l src act => [headerI 0x8#4 act l src]
  | .sample l => [headerI 0x9#4 false l 0#4]
  | .ack => [headerI 0xA#4 false .nmi 0#4]
  | .setbus b => [headerY b]
  | .cart p e g => [headerK p e g]
  | .reservedOp0 r => [headerN 0x0#4 r]
  | .reservedOpD r => [headerN 0xD#4 r]
  | .reservedOpE r => [headerN 0xE#4 r]
  | .reservedOpF r => [headerN 0xF#4 r]
  | _ => []

/-- The words of an instruction: a target row's words are its command's. -/
def encode (i : Instr) : List Word := encodeCommand i.command

/-! ## The table's numbering -/

/-- The words of one instruction whose bits are `w`, numbered as spec/opcode_table.json numbers them:
the header is bits 31:0, the extension words bits 63:32 and 95:64, and every bit above `nbits` is 0. -/
def tableWords (nbits w : Nat) : List Word :=
  let v := w % 2 ^ nbits
  let header := BitVec.ofNat 32 v
  if hasExtension header then
    [header, BitVec.ofNat 32 (v / 2 ^ 32), BitVec.ofNat 32 (v / 2 ^ 64)]
  else [header]

/-- The instruction the decoder reads from such bits. A `READ` or `WRITE` needs a configuration (R126):
it is the one at power-on (log 12). -/
def decodeTableWord (nbits w : Nat) : Option Instr :=
  match decode (tableWords nbits w) with
  | .ok (i, _) => some (target MapConfig.powerOn i)
  | .error _ => none

end Sys2Proof
end

