-- ==== Sys2Proof/Machine/State.lean ====
section
/-! DEFINITION. The machine's state as plain data (10_state.md R20 to R44), the items of its output
stream (30_encoding.md R124, R125), the stop codes (60_exceptions.md R310) and the reset state (R48). -/

namespace Sys2Proof.Machine

/-- RAM: byte cells by address. -/
abbrev Memory := List Host.Cell

/-- Colour RAM: nibble cells by index (10_state.md R29). -/
abbrev ColorRam := Store 4

/-- One boolean per source of an interrupt line, `NSRC = 16` of them (10_state.md R43). -/
abbrev Levels := Vector Bool 16

/-- What an event calls: an external callback by its tag, or a timer unit's tick (10_state.md R22). -/
inductive Owner
  | ext (tag : BitVec 16)
  | tick (chip : Chip) (unit : TimerId)
  deriving DecidableEq, Repr

/-- A queued event (10_state.md R22). -/
structure Event where
  target : Cycle
  phase : Nat
  seq : Handle
  owner : Owner
  deriving DecidableEq, Repr

/-- Where the core is in an `ADVANCE` (10_state.md R25). -/
inductive Sweep
  | idle
  | sweep (rem : BitVec 64)
  | await (handle : Handle) (rem : BitVec 64)
  deriving DecidableEq, Repr

/-- One timer unit (10_state.md R41). -/
structure TimerState where
  counter : BitVec 16
  latch : BitVec 16
  tick : Option Handle
  deriving DecidableEq, Repr

/-- One timer chip (10_state.md R35). -/
structure Cia where
  pra : Byte
  prb : Byte
  ddra : Byte
  ddrb : Byte
  ta : TimerState
  tb : TimerState
  cra : Byte
  crb : Byte
  mask : BitVec 5
  flags : BitVec 5
  ir : Bool
  deriving DecidableEq, Repr

/-- The fault codes (60_exceptions.md R310). -/
inductive FaultCode
  | illegalCommand
  | negativeDelay
  | badPhase
  | cycleOverflow
  | seqOverflow
  | badHandle
  | reentrantAdvance
  | unexpectedReturn
  | unsupportedOperation
  | doubleFire
  | configInvalid
  deriving DecidableEq, Repr

/-- The refusal codes (60_exceptions.md R310). -/
inductive RefusalCode
  | unmodelledReg
  | cntMode
  deriving DecidableEq, Repr

/-- The items of the output stream, responses (30_encoding.md R124) and events (R125), in the order
the core emits them. `Output.words` (Machine/Ops.lean) gives their words. -/
inductive Output
  | readByte (byte : Byte)
  | writeAck
  | scheduled (handle : Handle)
  | cancelAck
  | cycleIs (cycle : Cycle)
  | done
  | assertAck
  | sampled (value : Bool)
  | ackAck
  | setbusAck
  | cartAck
  | fire (handle : Handle) (tag : BitVec 16)
  | extWrite (bank : ExtBank) (addr : Addr) (data : Byte)
  | extRead (bank : ExtBank) (addr : Addr)
  | side (level : Bool)
  | stop (code : Byte)
  deriving DecidableEq, Repr

/-- The state of the core. `cfg` is the machine's parameters, read-only (log 1). `commands`, `output`,
`envCalls`, `oracle` and `drawn` are the model's own fields: the command port's input, the output
stream and the Environment calls so far, and the draws (logs 6, 8, 9, 21). -/
structure State where
  cfg : Params
  cycle : Cycle
  nextSeq : Handle
  queue : List Event
  sweep : Sweep
  ram : Memory
  color : ColorRam
  busByte : Byte
  portDdr : Byte
  portData : Byte
  cart : Cart
  cia1 : Cia
  cia2 : Cia
  side : Bool
  irqLevel : Levels
  nmiLevel : Levels
  nmiPrev : Bool
  nmiPending : Bool
  fault : Option FaultCode
  refusal : Option RefusalCode
  commands : List Word
  output : List Output
  envCalls : List (Chip × Bool)
  oracle : List Byte
  drawn : Nat
  deriving DecidableEq, Repr

/-- Why a step ends in a fault. -/
inductive Fault
  /-- Raised by `step` alone, in a state whose `fault` holds a code: the core has stopped and takes no
  further step (60_exceptions.md R311). The stop itself was a next state. Safe, log 10. -/
  | stopped (code : FaultCode)
  deriving DecidableEq, Repr

/-- Why a step is refused. -/
inductive Refusal
  /-- Raised by an arm of `exec` for an instruction that has no meaning yet. Safe. -/
  | notModelled (mnemonic : String)
  /-- Raised by `step` alone, in a state whose `refusal` holds a code: the core has stopped and takes no
  further step (60_exceptions.md R311). The stop itself was a next state. Safe, log 10. -/
  | stopped (code : RefusalCode)
  deriving DecidableEq, Repr

/-- What `exec` and `step` answer. -/
abbrev Result := Host.Outcome State Fault Refusal

/-- A timer unit at power-on (10_state.md R48). -/
def TimerState.reset : TimerState where
  counter := 0xFFFF#16
  latch := 0xFFFF#16
  tick := none

/-- A timer chip at power-on (10_state.md R48). -/
def Cia.reset : Cia where
  pra := 0x00#8
  prb := 0x00#8
  ddra := 0x00#8
  ddrb := 0x00#8
  ta := TimerState.reset
  tb := TimerState.reset
  cra := 0x00#8
  crb := 0x00#8
  mask := 0#5
  flags := 0#5
  ir := false

/-- The machine after power-on with the default parameters (10_state.md R48). RAM and colour RAM list
nothing, and the bus byte is 0x00, since their power-on values are OPEN (logs 2 to 4). -/
def State.reset : State where
  cfg := Params.default
  cycle := 0#64
  nextSeq := 0#64
  queue := []
  sweep := .idle
  ram := []
  color := []
  busByte := 0x00#8
  portDdr := 0x00#8
  portData := 0x00#8
  cart := ⟨false, true, true⟩
  cia1 := Cia.reset
  cia2 := Cia.reset
  side := true
  irqLevel := Vector.replicate 16 false
  nmiLevel := Vector.replicate 16 false
  nmiPrev := false
  nmiPending := false
  fault := none
  refusal := none
  commands := []
  output := []
  envCalls := []
  oracle := []
  drawn := 0

end Sys2Proof.Machine
end

