-- ==== Sys2Proof/Machine/Flags.lean ====
section
/-! DEFINITION. Every flag computation: the interrupt flags, mask and output of a timer chip
(10_state.md R39, R40; 42_timer.md R248 to R251), the levels and the edge of the interrupt lines
(43_interrupts.md R292 to R296), and the tests on a control register (10_state.md R37, R38). -/

namespace Sys2Proof.Machine

/-! ## Timer chip flags -/

/-- The flag and mask bit of a unit: `bit(u)`, 0 for A and 1 for B (42_timer.md). -/
def timerBit : TimerId → Nat
  | .a => 0
  | .b => 1

/-- `flags` with a unit's sticky bit set (42_timer.md R248 (a)). -/
def setFlag (flags : BitVec 5) (u : TimerId) : BitVec 5 := flags ||| (1#5 <<< timerBit u)

/-- The ICR as read: `zext_8(flags) | (ir << 7)` (42_timer.md R250). -/
def icrByte (flags : BitVec 5) (ir : Bool) : Byte := flags.setWidth 8 ||| ((BitVec.ofBool ir).setWidth 8 <<< 7)

/-- The mask after a write of the ICR: bit 7 sets or clears the bits selected in 4:0 (R251). -/
def maskAfterWrite (mask : BitVec 5) (v : Byte) : BitVec 5 :=
  if v.getLsbD 7 then mask ||| v.extractLsb' 0 5 else mask &&& ~~~(v.extractLsb' 0 5)

/-! ## Control register tests -/

/-- START, bit 0. -/
def crStart (cr : Byte) : Bool := cr.getLsbD 0

/-- RUNMODE, bit 3: true for one-shot. -/
def crOneShot (cr : Byte) : Bool := cr.getLsbD 3

/-- LOAD, bit 4, the strobe of a written value. -/
def crLoad (cr : Byte) : Bool := cr.getLsbD 4

/-- The stored value of a control register write: LOAD is never stored (42_timer.md R240). -/
def crStored (v : Byte) : Byte := v &&& 0xEF#8

/-- A written value that would run a unit on the CNT pin: START 1 with bit 5 set, which is CRA INMODE 1
and CRB INMODE 01 or 11 (R240, R242). -/
def crRunsOnCnt (v : Byte) : Bool := v.getLsbD 0 && v.getLsbD 5

/-- INMODE of CRB, bits 6:5. -/
def crbInmode (crb : Byte) : BitVec 2 := crb.extractLsb' 5 2

/-- A control register with START cleared (R248, one-shot). -/
def crStopped (cr : Byte) : Byte := cr &&& 0xFE#8

/-- `Clocked(c, u)`: the unit runs and counts cycle ticks (R243). -/
def clocked (x : Cia) (u : TimerId) : Bool :=
  match u with
  | .a => crStart x.cra
  | .b => crStart x.crb && crbInmode x.crb == 0b00#2

/-- Timer B runs and counts timer A's expiries (R249). -/
def cascaded (x : Cia) : Bool := crStart x.crb && crbInmode x.crb == 0b10#2

/-! ## Interrupt lines -/

/-- `OR over i` of a line's levels (43_interrupts.md R293, R294). -/
def anyAsserted (v : Levels) : Bool := v.toList.any id

/-- A line's levels with source `i` at `b` (R292). -/
def setLevel (v : Levels) (i : BitVec 4) (b : Bool) : Levels := v.set i.toNat b (by omega)

/-- The level of source `i` of a line. -/
def levelOf (v : Levels) (i : BitVec 4) : Bool := v[i.toNat]'(by omega)

/-- `nmiPending` after an NMI level change: set by a 0 to 1 transition of the OR (R293). -/
def nmiPendingAfter (any prev pending : Bool) : Bool := if any && !prev then true else pending

/-- The wire `irq_out` (R296). -/
def State.irqOut (s : State) : Bool := anyAsserted s.irqLevel

/-- The wire `nmi_out` (R296). -/
def State.nmiOut (s : State) : Bool := s.nmiPending

end Sys2Proof.Machine
end

