-- ==== Sys2Proof/Machine/Ops.lean ====
section
/-! DEFINITION. The named operations over storage, the output stream, the queue, the chips and the
interrupt lines, and the one operation by which the core stops (60_exceptions.md R311). -/

namespace Sys2Proof.Machine

/-! ## Storage: RAM, colour RAM and the ROM images -/

/-- What a cell that no list entry names reads as. The spec's contents are OPEN (00_scope.md R10);
DESIGN CHOICE, unsafe, logs 2, 3, 5. -/
def unlisted (w : Nat) : BitVec w := 0#w

/-- Reads one cell. -/
def Store.read {w : Nat} (m : Store w) (a : Nat) : BitVec w :=
  match m with
  | [] => unlisted w
  | (k, v) :: rest => if k = a then v else Store.read rest a

/-- Writes one cell, keeping the canonical form: rising numbers, and no entry equal to what an unlisted
cell reads as. -/
def Store.write {w : Nat} (m : Store w) (a : Nat) (v : BitVec w) : Store w :=
  match m with
  | [] => if v = unlisted w then [] else [(a, v)]
  | (k, x) :: rest =>
    if a < k then (if v = unlisted w then (k, x) :: rest else (a, v) :: (k, x) :: rest)
    else if a = k then (if v = unlisted w then rest else (a, v) :: rest)
    else (k, x) :: Store.write rest a v

/-- The canonical form from number `lo` up to `size`: strictly rising, below `size`, no unlisted value. -/
def Store.wfFrom {w : Nat} (size lo : Nat) (m : Store w) : Bool :=
  match m with
  | [] => true
  | (k, v) :: rest => decide (lo ≤ k) && decide (k < size) && decide (v ≠ unlisted w) && Store.wfFrom size (k + 1) rest

/-- Reads a byte of RAM. -/
def Memory.read (m : Memory) (a : Addr) : Byte := Store.read (w := 8) m a.toNat

/-- Writes a byte of RAM. -/
def Memory.write (m : Memory) (a : Addr) (v : Byte) : Memory := Store.write (w := 8) m a.toNat v

/-- RAM is in canonical form over its 65536 addresses (10_state.md R28). -/
def Memory.wf (m : Memory) : Bool := Store.wfFrom (w := 8) 65536 0 m

/-- Reads a nibble of colour RAM. -/
def ColorRam.read (m : ColorRam) (i : BitVec 10) : BitVec 4 := Store.read (w := 4) m i.toNat

/-- Writes a nibble of colour RAM. -/
def ColorRam.write (m : ColorRam) (i : BitVec 10) (v : BitVec 4) : ColorRam := Store.write (w := 4) m i.toNat v

/-- Colour RAM is in canonical form over its 1024 nibbles (10_state.md R29). -/
def ColorRam.wf (m : ColorRam) : Bool := Store.wfFrom (w := 4) 1024 0 m

/-! ## The configuration -/

/-- What the bindings are a function of, in this state (20_memory.md R85). -/
def State.mapConfig (s : State) : MapConfig where
  portDdr := s.portDdr
  portData := s.portData
  cart := s.cart
  plaRead := s.cfg.plaRead
  plaWrite := s.cfg.plaWrite

/-- The mode number `m` of this state (20_memory.md R78). -/
def State.mode (s : State) : Nat := s.mapConfig.inputs.mode

/-- `TIMER_RATE[c]` (00_scope.md R10). -/
def timerRate (p : Params) : Chip → Nat
  | .cia1 => p.timerRate1
  | .cia2 => p.timerRate2

/-! ## The output stream -/

/-- `emit E`, and `respond v`: appends to the output stream (00_scope.md R15). -/
def State.emit (s : State) (o : Output) : State := { s with output := s.output ++ [o] }

/-- The bank code of an external Bank (30_encoding.md R125). -/
def extCode : ExtBank → Byte
  | .vic => 1#8
  | .sid => 2#8
  | .roml => 3#8
  | .romh => 4#8
  | .io1 => 5#8
  | .io2 => 6#8

/-- The words of an output item (30_encoding.md R124, R125). -/
def Output.words : Output → List Word
  | .readByte b => [0x10000000#32 ||| place b 0]
  | .writeAck => [0x20000000#32]
  | .scheduled h => [0x30000000#32, lowWord h, highWord h]
  | .cancelAck => [0x40000000#32]
  | .cycleIs c => [0x50000000#32, lowWord c, highWord c]
  | .done => [0x60000000#32]
  | .assertAck => [0x80000000#32]
  | .sampled v => [0x90000000#32 ||| placeBit v 0]
  | .ackAck => [0xA0000000#32]
  | .setbusAck => [0xB0000000#32]
  | .cartAck => [0xC0000000#32]
  | .fire h tag => [0xF1000000#32 ||| place tag 0, lowWord h, highWord h]
  | .extWrite x a v => [0xF2000000#32 ||| place (extCode x) 8 ||| place v 0, place a 0]
  | .extRead x a => [0xF3000000#32 ||| place (extCode x) 8, place a 0]
  | .side l => [0xF4000000#32 ||| placeBit l 0]
  | .stop code => [0xFE000000#32 ||| place code 0]

/-- The output stream's words so far. -/
def State.outputWords (s : State) : List Word := s.output.flatMap Output.words

/-! ## Stopping: the core's only "exception" (60_exceptions.md R310, R311, R318) -/

/-- The code number of a fault (R310). -/
def FaultCode.code : FaultCode → Byte
  | .illegalCommand => 0x01#8
  | .negativeDelay => 0x02#8
  | .badPhase => 0x03#8
  | .cycleOverflow => 0x04#8
  | .seqOverflow => 0x05#8
  | .badHandle => 0x06#8
  | .reentrantAdvance => 0x07#8
  | .unexpectedReturn => 0x08#8
  | .unsupportedOperation => 0x09#8
  | .doubleFire => 0x0A#8
  | .configInvalid => 0x0B#8

/-- The code number of a refusal (R310). -/
def RefusalCode.code : RefusalCode → Byte
  | .unmodelledReg => 0x81#8
  | .cntMode => 0x82#8

/-- `raise Fault(code)`: records the code and emits `STOP(code)` (R311). -/
def State.raiseFault (s : State) (c : FaultCode) : State := { s with fault := some c }.emit (.stop c.code)

/-- `raise Refuse(code)`: records the code and emits `STOP(code)` (R311). -/
def State.raiseRefusal (s : State) (c : RefusalCode) : State := { s with refusal := some c }.emit (.stop c.code)

/-- The core has stopped (R311). -/
def State.stopped (s : State) : Bool := s.fault.isSome || s.refusal.isSome

/-- The end of a callback, the core's only return (60_exceptions.md R319): the sweep continues with
`rem` further cycles (40_scheduler.md R152). -/
def State.resumeSweep (s : State) (rem : BitVec 64) : State := { s with sweep := .sweep rem }

/-- The end of a rule that may have stopped on the way: `.ok` gives the response, `.error` is the stopped
state, which gives none (R311). -/
def finish (r : Except State State) (response : Output) : Result :=
  match r with
  | .ok s => .next (s.emit response)
  | .error s => .next s

/-! ## Draws (00_scope.md R11) -/

/-- The value the next draw takes: the oracle's next ready answer, or a free value (log 6). -/
def State.drawValue (s : State) : Byte :=
  match s.oracle with
  | [] => Config.freeByte s.drawn
  | v :: _ => v

/-- The state after a draw: its answer is used up. -/
def State.afterDraw (s : State) : State := { s with oracle := s.oracle.tail, drawn := s.drawn + 1 }

/-! ## The event queue (40_scheduler.md R140 to R142) -/

/-- `Enqueue(d, p, owner)` (R140): the handle and the new state, or the stopped state. -/
def State.enqueue (s : State) (d p : Nat) (o : Owner) : Except State (Handle × State) :=
  if s.cycle.toNat + d > maxU64 then .error (s.raiseFault .cycleOverflow)
  else if s.nextSeq.toNat = maxU64 then .error (s.raiseFault .seqOverflow)
  else
    let e : Event := ⟨BitVec.ofNat 64 (s.cycle.toNat + d), p, s.nextSeq, o⟩
    .ok (s.nextSeq, { s with queue := s.queue ++ [e], nextSeq := s.nextSeq + 1#64 })

/-- `Dequeue(h)` (R141). -/
def State.dequeue (s : State) (h : Handle) : State :=
  { s with queue := s.queue.filter fun e => decide (e.seq ≠ h) }

/-- `EventLess(e1, e2)` (R142). -/
def eventLess (e1 e2 : Event) : Bool :=
  decide (e1.target < e2.target) ||
    (decide (e1.target = e2.target) &&
      (decide (e1.phase < e2.phase) || (decide (e1.phase = e2.phase) && decide (e1.seq < e2.seq))))

/-- The `EventLess`-least element of a list. -/
def leastEvent : List Event → Option Event
  | [] => none
  | e :: es =>
    match leastEvent es with
    | none => some e
    | some f => if eventLess f e then some f else some e

/-- The events due at the current cycle (R147). -/
def State.due (s : State) : List Event := s.queue.filter fun e => decide (e.target ≤ s.cycle)

/-- The live event with a handle. -/
def State.eventOf (s : State) (h : Handle) : Option Event := s.queue.find? fun e => decide (e.seq = h)

/-! ## The timer chips' registers (10_state.md R35, R36) -/

/-- A chip's state. -/
def State.cia (s : State) : Chip → Cia
  | .cia1 => s.cia1
  | .cia2 => s.cia2

/-- Replaces a chip's state. -/
def State.setCia (s : State) (c : Chip) (x : Cia) : State :=
  match c with
  | .cia1 => { s with cia1 := x }
  | .cia2 => { s with cia2 := x }

/-- A unit of a chip. -/
def Cia.timer (x : Cia) : TimerId → TimerState
  | .a => x.ta
  | .b => x.tb

/-- Replaces a unit of a chip. -/
def Cia.setTimer (x : Cia) (u : TimerId) (t : TimerState) : Cia :=
  match u with
  | .a => { x with ta := t }
  | .b => { x with tb := t }

/-- A unit's control register. -/
def Cia.control (x : Cia) : TimerId → Byte
  | .a => x.cra
  | .b => x.crb

/-- Replaces a unit's control register. -/
def Cia.setControl (x : Cia) (u : TimerId) (v : Byte) : Cia :=
  match u with
  | .a => { x with cra := v }
  | .b => { x with crb := v }

/-- A port's data register. -/
def Cia.portData (x : Cia) : TimerId → Byte
  | .a => x.pra
  | .b => x.prb

/-- Replaces a port's data register. -/
def Cia.setPortData (x : Cia) (p : TimerId) (v : Byte) : Cia :=
  match p with
  | .a => { x with pra := v }
  | .b => { x with prb := v }

/-- A port's direction register. -/
def Cia.portDir (x : Cia) : TimerId → Byte
  | .a => x.ddra
  | .b => x.ddrb

/-- Replaces a port's direction register. -/
def Cia.setPortDir (x : Cia) (p : TimerId) (v : Byte) : Cia :=
  match p with
  | .a => { x with ddra := v }
  | .b => { x with ddrb := v }

/-- Replaces a unit's counter. -/
def Cia.setCounter (x : Cia) (u : TimerId) (n : BitVec 16) : Cia :=
  x.setTimer u { x.timer u with counter := n }

/-- Replaces a unit's latch. -/
def Cia.setLatch (x : Cia) (u : TimerId) (n : BitVec 16) : Cia :=
  x.setTimer u { x.timer u with latch := n }

/-- Replaces a unit's pending tick handle. -/
def Cia.setTick (x : Cia) (u : TimerId) (h : Option Handle) : Cia :=
  x.setTimer u { x.timer u with tick := h }

/-- Loads a unit's counter from its latch. -/
def Cia.loadCounter (x : Cia) (u : TimerId) : Cia := x.setCounter u (x.timer u).latch

/-! ## The interrupt lines (43_interrupts.md R292, R293) -/

/-- The levels of a line. -/
def State.levels (s : State) : Line → Levels
  | .irq => s.irqLevel
  | .nmi => s.nmiLevel

/-- `NmiUpdate()` (R293). -/
def State.nmiUpdate (s : State) : State :=
  let any := anyAsserted s.nmiLevel
  { s with nmiPending := nmiPendingAfter any s.nmiPrev s.nmiPending, nmiPrev := any }

/-- `Assert(L, i, b)` (R292). -/
def State.assertLine (s : State) (l : Line) (i : BitVec 4) (b : Bool) : State :=
  match l with
  | .irq => { s with irqLevel := setLevel s.irqLevel i b }
  | .nmi => { s with nmiLevel := setLevel s.nmiLevel i b }.nmiUpdate

/-- The line a chip's Environment feeds: CIA1 IRQ, CIA2 NMI (42_timer.md R266, R267). -/
def chipLine : Chip → Line
  | .cia1 => .irq
  | .cia2 => .nmi

/-- `Env_c.raiseInterrupt(b)` (42_timer.md R266): source 0 of the chip's line. The call is recorded in the
model's own trace (log 21). -/
def State.raiseInterrupt (s : State) (c : Chip) (b : Bool) : State :=
  { s with envCalls := s.envCalls ++ [(c, b)] }.assertLine (chipLine c) 0#4 b

end Sys2Proof.Machine
end

