-- ==== Sys2Proof/Machine/Timer.lean ====
section
/-! DEFINITION. The interval timer chips (42_timer.md): counting, expiry and cascade, the interrupt
control register, the Environments, and the meaning of every row for a chip register. A row's meaning
is the access once the target decode of 30_encoding.md R126 chose it, with its response (R124). -/

namespace Sys2Proof.Machine

/-! ## Counting -/

/-- Replaces a unit's pending tick handle. -/
def State.setTick (s : State) (c : Chip) (u : TimerId) (h : Option Handle) : State :=
  s.setCia c ((s.cia c).setTick u h)

/-- `Reconcile(c, u)` (R243): a clocked unit has one pending tick event, any other has none. -/
def reconcile (c : Chip) (u : TimerId) (s : State) : Except State State :=
  let t := (s.cia c).timer u
  match clocked (s.cia c) u, t.tick with
  | true, none =>
    match s.enqueue (timerRate s.cfg c) s.cfg.timerPhase (.tick c u) with
    | .ok (h, s') => .ok (s'.setTick c u (some h))
    | .error s' => .error s'
  | false, some h => .ok ((s.dequeue h).setTick c u none)
  | true, some _ => .ok s
  | false, none => .ok s

/-- Step (a) of an expiry: the sticky flag (R248). -/
def expireFlag (c : Chip) (u : TimerId) (s : State) : State :=
  s.setCia c { s.cia c with flags := setFlag (s.cia c).flags u }

/-- Step (b) of an expiry (R248): a continuous unit reloads; a one-shot unit stops at 0, and its tick
event goes. -/
def expireReload (c : Chip) (u : TimerId) (s : State) : Except State State :=
  let x := s.cia c
  if crOneShot (x.control u) then
    reconcile c u (s.setCia c ((x.setCounter u 0#16).setControl u (crStopped (x.control u))))
  else .ok (s.setCia c (x.loadCounter u))

/-- Step (c) of an expiry: the interrupt output, when the unit's mask bit is 1 (R248). -/
def expireInterrupt (c : Chip) (u : TimerId) (s : State) : State :=
  let x := s.cia c
  if x.mask.getLsbD (timerBit u) then (s.setCia c { x with ir := true }).raiseInterrupt c true else s

/-- `Expire(c, u)` without the cascade (R248 (a) to (c)). -/
def expireUnit (c : Chip) (u : TimerId) (s : State) : Except State State :=
  match expireReload c u (expireFlag c u s) with
  | .ok s' => .ok (expireInterrupt c u s')
  | .error s' => .error s'

/-- A tick that does not reach zero (R246). -/
def countDown (c : Chip) (u : TimerId) (s : State) : State :=
  let x := s.cia c
  s.setCia c (x.setCounter u ((x.timer u).counter - 1#16))

/-- The unit's count reaches zero at its next tick: its counter holds 1 or 0 (R246). -/
def atZero (x : Cia) (u : TimerId) : Bool := decide ((x.timer u).counter.toNat ≤ 1)

/-- `Tick(c, B)` (R246): an expiry of B has no cascade. -/
def tickB (c : Chip) (s : State) : Except State State :=
  if atZero (s.cia c) .b then expireUnit c .b s else .ok (countDown c .b s)

/-- `Cascade(c)` (R249). -/
def cascade (c : Chip) (s : State) : Except State State :=
  if cascaded (s.cia c) then tickB c s else .ok s

/-- `Tick(c, A)` (R246), with the cascade at the end of an expiry of A (R248, R249). -/
def tickA (c : Chip) (s : State) : Except State State :=
  if atZero (s.cia c) .a then
    match expireUnit c .a s with
    | .ok s' => cascade c s'
    | .error s' => .error s'
  else .ok (countDown c .a s)

/-- `Tick(c, u)` (R246). -/
def tick (c : Chip) (u : TimerId) (s : State) : Except State State :=
  match u with
  | .a => tickA c s
  | .b => tickB c s

/-- The firing of a tick event that the sweep has removed from the queue (R247). -/
def fireTick (c : Chip) (u : TimerId) (s : State) : Except State State :=
  match tick c u (s.setTick c u none) with
  | .ok s' => reconcile c u s'
  | .error s' => .error s'

/-! ## Register effects -/

/-- CIA1's side signal after a write of PRB or DDRB: `(prb | ~ddrb)[4]` (R268). -/
def sideLevel (x : Cia) : Bool := (x.prb ||| ~~~x.ddrb).getLsbD 4

/-- The Environment's side effect of a write of CIA1's PRB or DDRB (R268). -/
def updateSide (s : State) : State :=
  let new := sideLevel s.cia1
  if new = s.side then s else { s with side := new }.emit (.side new)

/-- The side signal follows a port write when the chip is CIA1 and the port is B (R233, R234). -/
def afterPortWrite (c : Chip) (p : TimerId) (s : State) : State :=
  match c, p with
  | .cia1, .b => updateSide s
  | .cia1, .a => s
  | .cia2, .a => s
  | .cia2, .b => s

/-- `CiaWrite(c, TuHI, v)` (R238): a stopped unit loads its counter. -/
def writeTimerHigh (x : Cia) (u : TimerId) (v : Byte) : Cia :=
  let x' := x.setLatch u (withHighByte (x.timer u).latch v)
  if crStart (x.control u) then x' else x'.loadCounter u

/-- The control register write once it is not refused (R240, R241): the stored value, the force load,
then the tick reconciliation. -/
def writeControl (c : Chip) (u : TimerId) (v : Byte) (s : State) : Except State State :=
  let x := (s.cia c).setControl u (crStored v)
  reconcile c u (s.setCia c (if crLoad v then x.loadCounter u else x))

/-- The state after an ICR read (R250): flags and output cleared, and the Environment told when the
output was 1. -/
def clearIcr (c : Chip) (s : State) : State :=
  let x := s.cia c
  if x.ir then (s.setCia c { x with flags := 0#5, ir := false }).raiseInterrupt c false
  else s.setCia c { x with flags := 0#5 }

/-- The state after an ICR write (R251): the mask, and the output asserted when a set flag is enabled. -/
def writeMask (c : Chip) (v : Byte) (s : State) : State :=
  let x := s.cia c
  let mask := maskAfterWrite x.mask v
  if mask &&& x.flags ≠ 0#5 ∧ x.ir = false then
    (s.setCia c { x with mask := mask, ir := true }).raiseInterrupt c true
  else s.setCia c { x with mask := mask }

/-! ## The rows' meanings -/

/-- `READ` of PRA or PRB (R231). -/
def execReadCiaPr (c : Chip) (a : Addr) (s : State) : Result :=
  let x := s.cia c
  let p := portSel a
  .next (s.afterDraw.emit (.readByte (mixLines (x.portData p) (x.portDir p) s.drawValue)))

/-- `WRITE` of PRA or PRB (R233). -/
def execWriteCiaPr (c : Chip) (a : Addr) (v : Byte) (s : State) : Result :=
  let p := portSel a
  .next ((afterPortWrite c p (s.setCia c ((s.cia c).setPortData p v))).emit .writeAck)

/-- `READ` of DDRA or DDRB (R232). -/
def execReadCiaDdr (c : Chip) (a : Addr) (s : State) : Result :=
  .next (s.emit (.readByte ((s.cia c).portDir (portSel a))))

/-- `WRITE` of DDRA or DDRB (R234). -/
def execWriteCiaDdr (c : Chip) (a : Addr) (v : Byte) (s : State) : Result :=
  let p := portSel a
  .next ((afterPortWrite c p (s.setCia c ((s.cia c).setPortDir p v))).emit .writeAck)

/-- `READ` of TALO or TBLO (R235). -/
def execReadCiaTlo (c : Chip) (a : Addr) (s : State) : Result :=
  .next (s.emit (.readByte (lowByte ((s.cia c).timer (timerSel a)).counter)))

/-- `WRITE` of TALO or TBLO: the latch only (R237). -/
def execWriteCiaTlo (c : Chip) (a : Addr) (v : Byte) (s : State) : Result :=
  let x := s.cia c
  let u := timerSel a
  .next ((s.setCia c (x.setLatch u (withLowByte (x.timer u).latch v))).emit .writeAck)

/-- `READ` of TAHI or TBHI (R236). -/
def execReadCiaThi (c : Chip) (a : Addr) (s : State) : Result :=
  .next (s.emit (.readByte (highByte ((s.cia c).timer (timerSel a)).counter)))

/-- `WRITE` of TAHI or TBHI (R238). -/
def execWriteCiaThi (c : Chip) (a : Addr) (v : Byte) (s : State) : Result :=
  .next ((s.setCia c (writeTimerHigh (s.cia c) (timerSel a) v)).emit .writeAck)

/-- `READ` of a time-of-day offset: refused `RF_UNMODELLED_REG` (R262). -/
def execReadCiaTod (_c : Chip) (_a : Addr) (s : State) : Result := .next (s.raiseRefusal .unmodelledReg)

/-- `WRITE` of a time-of-day offset: refused `RF_UNMODELLED_REG` (R262). -/
def execWriteCiaTod (_c : Chip) (_a : Addr) (_v : Byte) (s : State) : Result :=
  .next (s.raiseRefusal .unmodelledReg)

/-- `READ` of the serial register: refused `RF_UNMODELLED_REG` (R262). -/
def execReadCiaSdr (_c : Chip) (_a : Addr) (s : State) : Result := .next (s.raiseRefusal .unmodelledReg)

/-- `WRITE` of the serial register: refused `RF_UNMODELLED_REG` (R262). -/
def execWriteCiaSdr (_c : Chip) (_a : Addr) (_v : Byte) (s : State) : Result :=
  .next (s.raiseRefusal .unmodelledReg)

/-- `READ` of the ICR, test and clear (R250). -/
def execReadCiaIcr (c : Chip) (_a : Addr) (s : State) : Result :=
  .next ((clearIcr c s).emit (.readByte (icrByte (s.cia c).flags (s.cia c).ir)))

/-- `WRITE` of the ICR, the mask (R251). -/
def execWriteCiaIcr (c : Chip) (_a : Addr) (v : Byte) (s : State) : Result :=
  .next ((writeMask c v s).emit .writeAck)

/-- `READ` of CRA or CRB (R239). -/
def execReadCiaCr (c : Chip) (a : Addr) (s : State) : Result :=
  .next (s.emit (.readByte ((s.cia c).control (controlSel a))))

/-- `WRITE` of CRA or CRB (R240): refused `RF_CNT_MODE` before any write when it would run the unit on
the CNT pin (R242). -/
def execWriteCiaCr (c : Chip) (a : Addr) (v : Byte) (s : State) : Result :=
  if crRunsOnCnt v then .next (s.raiseRefusal .cntMode)
  else finish (writeControl c (controlSel a) v s) .writeAck

end Sys2Proof.Machine
end

