-- ==== Sys2Proof/Machine/Bus.lean ====
section
/-! DEFINITION. The address-space family (41_address_space.md): the meaning of every row for a Bank that
is no timer chip, of `READ` and `WRITE`, which route to those rows, and of `SETBUS` and `CART`. A row's
meaning is the access once the target decode of 30_encoding.md R126 chose it, with its response. -/

namespace Sys2Proof.Machine

/-! ## The CPU I/O port -/

/-- The pins of the CPU I/O port as drawn: bits 2:0 are 1 (00_scope.md R11, R186). -/
def portPins (v : Byte) : Byte := v ||| 0x07#8

/-- `READ` of 0x0000 (R186). -/
def execReadPortDdr (s : State) : Result := .next (s.emit (.readByte s.portDdr))

/-- `READ` of 0x0001 (R186). -/
def execReadPortData (s : State) : Result :=
  .next (s.afterDraw.emit (.readByte (mixLines s.portData s.portDdr (portPins s.drawValue))))

/-- `WRITE` of 0x0000 (R187). The bindings follow, being computed from the port (20_memory.md R85). -/
def execWritePortDdr (v : Byte) (s : State) : Result := .next ({ s with portDdr := v }.emit .writeAck)

/-- `WRITE` of 0x0001 (R188). The bindings follow, being computed from the port (20_memory.md R85). -/
def execWritePortData (v : Byte) (s : State) : Result := .next ({ s with portData := v }.emit .writeAck)

/-! ## RAM, ROM, colour RAM and the disconnected bus -/

/-- `READ` of RAM (R182). -/
def execReadRam (a : Addr) (s : State) : Result := .next (s.emit (.readByte (Memory.read s.ram a)))

/-- `WRITE` of RAM (R183). -/
def execWriteRam (a : Addr) (v : Byte) (s : State) : Result :=
  .next ({ s with ram := Memory.write s.ram a v }.emit .writeAck)

/-- `READ` of the BASIC ROM (R184). -/
def execReadBasic (a : Addr) (s : State) : Result :=
  .next (s.emit (.readByte (Store.read s.cfg.romBasic (romIndex8K a).toNat)))

/-- `READ` of the KERNAL ROM (R184). -/
def execReadKernal (a : Addr) (s : State) : Result :=
  .next (s.emit (.readByte (Store.read s.cfg.romKernal (romIndex8K a).toNat)))

/-- `READ` of the character ROM (R184). -/
def execReadChar (a : Addr) (s : State) : Result :=
  .next (s.emit (.readByte (Store.read s.cfg.romChar (romIndex4K a).toNat)))

/-- `WRITE` to a ROM Bank: `UNSUPPORTED_OPERATION`, nothing written (R185). -/
def execWriteRom (_a : Addr) (_v : Byte) (s : State) : Result :=
  .next (s.raiseFault .unsupportedOperation)

/-- The byte a colour RAM read gives: the bus byte's high nibble over the stored nibble (R189). -/
def colorByte (bus : Byte) (n : BitVec 4) : Byte := (bus &&& 0xF0#8) ||| n.setWidth 8

/-- `READ` of colour RAM (R189). -/
def execReadColor (a : Addr) (s : State) : Result :=
  .next (s.emit (.readByte (colorByte s.busByte (ColorRam.read s.color (colorIndex a)))))

/-- `WRITE` of colour RAM: the low nibble (R190). -/
def execWriteColor (a : Addr) (v : Byte) (s : State) : Result :=
  .next ({ s with color := ColorRam.write s.color (colorIndex a) (v.extractLsb' 0 4) }.emit .writeAck)

/-- `READ` of the disconnected bus (R191). -/
def execReadOpen (_a : Addr) (s : State) : Result := .next (s.emit (.readByte s.busByte))

/-- `WRITE` of the disconnected bus: no effect (R192). -/
def execWriteOpen (_a : Addr) (_v : Byte) (s : State) : Result := .next (s.emit .writeAck)

/-! ## External Banks -/

/-- An external read: `EXT_READ` goes out, the oracle's byte comes back, then the response (R196). -/
def extRead (x : ExtBank) (a : Addr) (s : State) : Result :=
  .next ((s.emit (.extRead x a)).afterDraw.emit (.readByte s.drawValue))

/-- An external write: `EXT_WRITE` goes out and no state of the core changes (R197). -/
def extWrite (x : ExtBank) (a : Addr) (v : Byte) (s : State) : Result :=
  .next ((s.emit (.extWrite x a v)).emit .writeAck)

/-- `READ` of the video chip (R195, R196). -/
def execReadVic (a : Addr) (s : State) : Result := extRead .vic a s

/-- `WRITE` of the video chip (R195, R197). -/
def execWriteVic (a : Addr) (v : Byte) (s : State) : Result := extWrite .vic a v s

/-- `READ` of the sound chip (R195, R196). -/
def execReadSid (a : Addr) (s : State) : Result := extRead .sid a s

/-- `WRITE` of the sound chip (R195, R197). -/
def execWriteSid (a : Addr) (v : Byte) (s : State) : Result := extWrite .sid a v s

/-- `READ` of the cartridge's ROML (R195, R196). -/
def execReadRoml (a : Addr) (s : State) : Result := extRead .roml a s

/-- `WRITE` of the cartridge's ROML (R195, R197). -/
def execWriteRoml (a : Addr) (v : Byte) (s : State) : Result := extWrite .roml a v s

/-- `READ` of the cartridge's ROMH in its window at 0xA000 (R195, R196). -/
def execReadRomhA (a : Addr) (s : State) : Result := extRead .romh a s

/-- `READ` of the cartridge's ROMH in its window at 0xE000 (R195, R196). -/
def execReadRomhE (a : Addr) (s : State) : Result := extRead .romh a s

/-- `WRITE` of the cartridge's ROMH (R195, R197). -/
def execWriteRomhE (a : Addr) (v : Byte) (s : State) : Result := extWrite .romh a v s

/-- `READ` of the cartridge's I/O page 0xDE (R195, R196). -/
def execReadIo1 (a : Addr) (s : State) : Result := extRead .io1 a s

/-- `WRITE` of the cartridge's I/O page 0xDE (R195, R197). -/
def execWriteIo1 (a : Addr) (v : Byte) (s : State) : Result := extWrite .io1 a v s

/-- `READ` of the cartridge's I/O page 0xDF (R195, R196). -/
def execReadIo2 (a : Addr) (s : State) : Result := extRead .io2 a s

/-- `WRITE` of the cartridge's I/O page 0xDF (R195, R197). -/
def execWriteIo2 (a : Addr) (v : Byte) (s : State) : Result := extWrite .io2 a v s

/-! ## READ and WRITE -/

/-- `BankRead` of a timer chip (R193): the register by its offset (42_timer.md R230). -/
def ciaRead (c : Chip) (a : Addr) (s : State) : Result :=
  let o := (chipReg a).toNat
  if o ≤ 0x1 then execReadCiaPr c a s
  else if o ≤ 0x3 then execReadCiaDdr c a s
  else if o = 0x4 ∨ o = 0x6 then execReadCiaTlo c a s
  else if o ≤ 0x7 then execReadCiaThi c a s
  else if o ≤ 0xB then execReadCiaTod c a s
  else if o = 0xC then execReadCiaSdr c a s
  else if o = 0xD then execReadCiaIcr c a s
  else execReadCiaCr c a s

/-- `BankWrite` of a timer chip (R194): the register by its offset (42_timer.md R230). -/
def ciaWrite (c : Chip) (a : Addr) (v : Byte) (s : State) : Result :=
  let o := (chipReg a).toNat
  if o ≤ 0x1 then execWriteCiaPr c a v s
  else if o ≤ 0x3 then execWriteCiaDdr c a v s
  else if o = 0x4 ∨ o = 0x6 then execWriteCiaTlo c a v s
  else if o ≤ 0x7 then execWriteCiaThi c a v s
  else if o ≤ 0xB then execWriteCiaTod c a v s
  else if o = 0xC then execWriteCiaSdr c a v s
  else if o = 0xD then execWriteCiaIcr c a v s
  else execWriteCiaCr c a v s

/-- `BankRead(x, a)` of an external Bank (R196). -/
def extBankRead (x : ExtBank) (a : Addr) (s : State) : Result :=
  match x with
  | .vic => execReadVic a s
  | .sid => execReadSid a s
  | .roml => execReadRoml a s
  | .romh => if a.toNat < 0xC000 then execReadRomhA a s else execReadRomhE a s
  | .io1 => execReadIo1 a s
  | .io2 => execReadIo2 a s

/-- `BankWrite(x, a, v)` of an external Bank (R197). -/
def extBankWrite (x : ExtBank) (a : Addr) (v : Byte) (s : State) : Result :=
  match x with
  | .vic => execWriteVic a v s
  | .sid => execWriteSid a v s
  | .roml => execWriteRoml a v s
  | .romh => execWriteRomhE a v s
  | .io1 => execWriteIo1 a v s
  | .io2 => execWriteIo2 a v s

/-- `READ addr` (R180): `MemRead`, by the Bank the configuration binds. A custom table's entry that
names no Bank is rejected at power-on; in a state no power-on leaves it stops as that check does
(DESIGN CHOICE, safe, log 15). -/
def execRead (a : Addr) (s : State) : Result :=
  match readBank s.mapConfig a with
  | some .ram => execReadRam a s
  | some .basic => execReadBasic a s
  | some .kernal => execReadKernal a s
  | some .char => execReadChar a s
  | some .port => if a = 0x0000#16 then execReadPortDdr s else execReadPortData s
  | some .color => execReadColor a s
  | some .openBus => execReadOpen a s
  | some .cia1 => ciaRead .cia1 a s
  | some .cia2 => ciaRead .cia2 a s
  | some (.ext x) => extBankRead x a s
  | none => .next (s.raiseFault .configInvalid)

/-- `WRITE addr, data` (R181): `MemWrite`, by the Bank the configuration binds; an entry that names no
Bank as for `READ` (log 15). -/
def execWrite (a : Addr) (v : Byte) (s : State) : Result :=
  match writeBank s.mapConfig a with
  | some .ram => execWriteRam a v s
  | some .basic => execWriteRom a v s
  | some .kernal => execWriteRom a v s
  | some .char => execWriteRom a v s
  | some .port => if a = 0x0000#16 then execWritePortDdr v s else execWritePortData v s
  | some .color => execWriteColor a v s
  | some .openBus => execWriteOpen a v s
  | some .cia1 => ciaWrite .cia1 a v s
  | some .cia2 => ciaWrite .cia2 a v s
  | some (.ext x) => extBankWrite x a v s
  | none => .next (s.raiseFault .configInvalid)

/-! ## Configuration commands -/

/-- `SETBUS byte` (R199). -/
def execSetbus (b : Byte) (s : State) : Result := .next ({ s with busByte := b }.emit .setbusAck)

/-- `CART present, exrom, game` (R200). The bindings follow (20_memory.md R85). -/
def execCart (present exrom game : Bool) (s : State) : Result :=
  .next ({ s with cart := ⟨present, exrom, game⟩ }.emit .cartAck)

end Sys2Proof.Machine
end

