-- ==== Sys2Proof/Machine/Illegal.lean ====
section
/-! DEFINITION. The reserved OPs (30_encoding.md R122): each raises `ILLEGAL_COMMAND` and writes nothing
else. -/

namespace Sys2Proof.Machine

/-- `raise Fault(ILLEGAL_COMMAND)` (R122). -/
def illegalCommand (s : State) : State := s.raiseFault .illegalCommand

/-- Reserved OP 0x0 (R122). -/
def execReservedOp0 (_rest : BitVec 28) (s : State) : Result := .next (illegalCommand s)

/-- Reserved OP 0xD (R122). -/
def execReservedOpD (_rest : BitVec 28) (s : State) : Result := .next (illegalCommand s)

/-- Reserved OP 0xE (R122). -/
def execReservedOpE (_rest : BitVec 28) (s : State) : Result := .next (illegalCommand s)

/-- Reserved OP 0xF (R122). -/
def execReservedOpF (_rest : BitVec 28) (s : State) : Result := .next (illegalCommand s)

end Sys2Proof.Machine
end

