-- ==== Sys2Proof/Machine/Interrupts.lean ====
section
/-! DEFINITION. The interrupt line aggregator's commands (43_interrupts.md): `ASSERT`, `SAMPLE`, `ACK`. -/

namespace Sys2Proof.Machine

/-- `ASSERT line, src, active` (R291). -/
def execAssert (l : Line) (src : BitVec 4) (active : Bool) (s : State) : Result :=
  .next ((s.assertLine l src active).emit .assertAck)

/-- `SAMPLE line` (R294). -/
def execSample (l : Line) (s : State) : Result :=
  match l with
  | .irq => .next (s.emit (.sampled s.irqOut))
  | .nmi => .next (s.emit (.sampled s.nmiOut))

/-- `ACK NMI` (R295). -/
def execAck (s : State) : Result := .next ({ s with nmiPending := false }.emit .ackAck)

end Sys2Proof.Machine
end

