-- ==== Sys2Proof/Machine/Scheduler.lean ====
section
/-! DEFINITION. The event scheduler (40_scheduler.md): `SCHEDULE`, `CANCEL`, `CYCLE`, `ADVANCE`,
`RETURN`, and the sweep step, which has no encoding (30_encoding.md R127). -/

namespace Sys2Proof.Machine

/-- `SCHEDULE delay, phase, tag` (R143), its checks in R314's order. -/
def execSchedule (delay : BitVec 64) (phase : BitVec 4) (tag : BitVec 16) (s : State) : Result :=
  if delay.toInt < 0 then .next (s.raiseFault .negativeDelay)
  else if s.cfg.nphase ≤ phase.toNat then .next (s.raiseFault .badPhase)
  else
    match s.enqueue delay.toNat phase.toNat (.ext tag) with
    | .ok (h, s') => .next (s'.emit (.scheduled h))
    | .error s' => .next s'

/-- `CANCEL handle` (R144). -/
def execCancel (h : Handle) (s : State) : Result :=
  if s.nextSeq ≤ h then .next (s.raiseFault .badHandle)
  else
    match s.eventOf h with
    | none => .next (s.emit .cancelAck)
    | some e =>
      match e.owner with
      | .tick _ _ => .next (s.raiseFault .badHandle)
      | .ext _ => .next ((s.dequeue h).emit .cancelAck)

/-- `CYCLE` (R145). -/
def execCycle (s : State) : Result := .next (s.emit (.cycleIs s.cycle))

/-- `ADVANCE n` (R146): it starts the sweep; its response is `DONE` at the sweep's end (R150). -/
def execAdvance (n : BitVec 28) (s : State) : Result :=
  if s.sweep ≠ .idle then .next (s.raiseFault .reentrantAdvance)
  else if n = 0#28 then .next { s with sweep := .sweep 0#64 }
  else if s.cycle.toNat + n.toNat > maxU64 then .next (s.raiseFault .cycleOverflow)
  else .next { s with cycle := s.cycle + 1#64, sweep := .sweep (BitVec.ofNat 64 (n.toNat - 1)) }

/-- `RETURN` (R152): no response of its own (30_encoding.md R124). -/
def execReturn (s : State) : Result :=
  match s.sweep with
  | .await _ rem => .next (s.resumeSweep rem)
  | .idle => .next (s.raiseFault .unexpectedReturn)
  | .sweep _ => .next (s.raiseFault .unexpectedReturn)

/-- The end of the sweep at one cycle value (R150). -/
def endSweep (rem : BitVec 64) (s : State) : State :=
  if rem = 0#64 then { s with sweep := .idle }.emit .done
  else { s with cycle := s.cycle + 1#64, sweep := .sweep (rem - 1#64) }

/-- The state a rule leaves, whether it stopped or not. -/
def settled (r : Except State State) : State :=
  match r with
  | .ok s => s
  | .error s => s

/-- Fires an event that has been removed from the queue (R148, R151). -/
def fireEvent (e : Event) (rem : BitVec 64) (s : State) : State :=
  match e.owner with
  | .tick c u => settled (fireTick c u s)
  | .ext tag => { s.emit (.fire e.seq tag) with sweep := .await e.seq rem }

/-- The sweep step (R147). -/
def sweepStep (rem : BitVec 64) (s : State) : State :=
  match leastEvent s.due with
  | some e => fireEvent e rem (s.dequeue e.seq)
  | none => endSweep rem s

end Sys2Proof.Machine
end

