-- ==== Sys2Proof/Machine/Dispatch.lean ====
section
/-! DEFINITION. One arm per instruction: the performance of a command the port has accepted, or of the
access its target row is (30_encoding.md R110, R126). -/

namespace Sys2Proof.Machine

def exec (i : Instr) (s : State) : Host.Outcome State Fault Refusal :=
  match i with
  | .read addr => Sys2Proof.Machine.execRead addr s
  | .write addr data => Sys2Proof.Machine.execWrite addr data s
  | .schedule delay phase tag => Sys2Proof.Machine.execSchedule delay phase tag s
  | .cancel handle => Sys2Proof.Machine.execCancel handle s
  | .cycle => Sys2Proof.Machine.execCycle s
  | .advance n => Sys2Proof.Machine.execAdvance n s
  | .ret => Sys2Proof.Machine.execReturn s
  | .assert line src active => Sys2Proof.Machine.execAssert line src active s
  | .sample line => Sys2Proof.Machine.execSample line s
  | .ack => Sys2Proof.Machine.execAck s
  | .setbus byte => Sys2Proof.Machine.execSetbus byte s
  | .cart present exrom game => Sys2Proof.Machine.execCart present exrom game s
  | .reservedOp0 rest => Sys2Proof.Machine.execReservedOp0 rest s
  | .reservedOpD rest => Sys2Proof.Machine.execReservedOpD rest s
  | .reservedOpE rest => Sys2Proof.Machine.execReservedOpE rest s
  | .reservedOpF rest => Sys2Proof.Machine.execReservedOpF rest s
  | .readPortDdr => Sys2Proof.Machine.execReadPortDdr s
  | .readPortData => Sys2Proof.Machine.execReadPortData s
  | .writePortDdr data => Sys2Proof.Machine.execWritePortDdr data s
  | .writePortData data => Sys2Proof.Machine.execWritePortData data s
  | .readRam addr => Sys2Proof.Machine.execReadRam addr s
  | .writeRam addr data => Sys2Proof.Machine.execWriteRam addr data s
  | .readBasic addr => Sys2Proof.Machine.execReadBasic addr s
  | .readKernal addr => Sys2Proof.Machine.execReadKernal addr s
  | .readChar addr => Sys2Proof.Machine.execReadChar addr s
  | .writeRom addr data => Sys2Proof.Machine.execWriteRom addr data s
  | .readColor addr => Sys2Proof.Machine.execReadColor addr s
  | .writeColor addr data => Sys2Proof.Machine.execWriteColor addr data s
  | .readOpen addr => Sys2Proof.Machine.execReadOpen addr s
  | .writeOpen addr data => Sys2Proof.Machine.execWriteOpen addr data s
  | .readVic addr => Sys2Proof.Machine.execReadVic addr s
  | .writeVic addr data => Sys2Proof.Machine.execWriteVic addr data s
  | .readSid addr => Sys2Proof.Machine.execReadSid addr s
  | .writeSid addr data => Sys2Proof.Machine.execWriteSid addr data s
  | .readRoml addr => Sys2Proof.Machine.execReadRoml addr s
  | .writeRoml addr data => Sys2Proof.Machine.execWriteRoml addr data s
  | .readRomhA addr => Sys2Proof.Machine.execReadRomhA addr s
  | .readRomhE addr => Sys2Proof.Machine.execReadRomhE addr s
  | .writeRomhE addr data => Sys2Proof.Machine.execWriteRomhE addr data s
  | .readIo1 addr => Sys2Proof.Machine.execReadIo1 addr s
  | .writeIo1 addr data => Sys2Proof.Machine.execWriteIo1 addr data s
  | .readIo2 addr => Sys2Proof.Machine.execReadIo2 addr s
  | .writeIo2 addr data => Sys2Proof.Machine.execWriteIo2 addr data s
  | .readCiaPr chip addr => Sys2Proof.Machine.execReadCiaPr chip addr s
  | .writeCiaPr chip addr data => Sys2Proof.Machine.execWriteCiaPr chip addr data s
  | .readCiaDdr chip addr => Sys2Proof.Machine.execReadCiaDdr chip addr s
  | .writeCiaDdr chip addr data => Sys2Proof.Machine.execWriteCiaDdr chip addr data s
  | .readCiaTlo chip addr => Sys2Proof.Machine.execReadCiaTlo chip addr s
  | .writeCiaTlo chip addr data => Sys2Proof.Machine.execWriteCiaTlo chip addr data s
  | .readCiaThi chip addr => Sys2Proof.Machine.execReadCiaThi chip addr s
  | .writeCiaThi chip addr data => Sys2Proof.Machine.execWriteCiaThi chip addr data s
  | .readCiaTod chip addr => Sys2Proof.Machine.execReadCiaTod chip addr s
  | .writeCiaTod chip addr data => Sys2Proof.Machine.execWriteCiaTod chip addr data s
  | .readCiaSdr chip addr => Sys2Proof.Machine.execReadCiaSdr chip addr s
  | .writeCiaSdr chip addr data => Sys2Proof.Machine.execWriteCiaSdr chip addr data s
  | .readCiaIcr chip addr => Sys2Proof.Machine.execReadCiaIcr chip addr s
  | .writeCiaIcr chip addr data => Sys2Proof.Machine.execWriteCiaIcr chip addr data s
  | .readCiaCr chip addr => Sys2Proof.Machine.execReadCiaCr chip addr s
  | .writeCiaCr chip addr data => Sys2Proof.Machine.execWriteCiaCr chip addr data s

end Sys2Proof.Machine
end

