-- ==== Sys2Proof/Machine/Port.lean ====
section
/-! DEFINITION. The command port (30_encoding.md R110, R126): what the core takes from the host's word
stream in a state in which it accepts a command. -/

namespace Sys2Proof.Machine

/-- What the command port has for the core. -/
inductive Incoming
  /-- No complete command has been issued (R326; log 8): the core waits. -/
  | wait
  /-- An illegal command (R122): the state after its stop. -/
  | illegal (s : State)
  /-- A command or its target row (R126), and the state with the command's words taken. -/
  | run (i : Instr) (s : State)
  deriving DecidableEq, Repr

/-- The core takes a command: not in `SWEEP`, and not once it has stopped (R110). -/
def State.accepts (s : State) : Bool :=
  !s.stopped && match s.sweep with
    | .idle => true
    | .await _ _ => true
    | .sweep _ => false

/-- Takes the next command (R126): an illegal one stops the core before any state is written (R122). -/
def State.incoming (s : State) : Incoming :=
  match fetch s.commands with
  | none => .wait
  | some f =>
    let t := { s with commands := f.rest }
    match decodeWords f.w f.x0 f.x1 with
    | .ok i => .run (target s.mapConfig i) t
    | .error _ => .illegal (illegalCommand t)

end Sys2Proof.Machine
end

