-- ==== Sys2Proof/Machine/Step.lean ====
section
/-! DEFINITION. One step of the core: a stopped core takes none (60_exceptions.md R311); a sweep in
progress takes one sweep action (40_scheduler.md R147); else the command port is asked (30_encoding.md
R110), and with no complete command there the core waits (60_exceptions.md R326). -/

namespace Sys2Proof.Machine

/-- One step. -/
def step (s : State) : Host.Outcome State Fault Refusal :=
  match s.fault, s.refusal with
  | some c, _ => .fault (.stopped c)
  | none, some c => .refused (.stopped c)
  | none, none =>
    match s.sweep with
    | .sweep rem => .next (sweepStep rem s)
    | .idle | .await _ _ =>
      match s.incoming with
      | .wait => .next s
      | .illegal t => .next t
      | .run i t => exec i t

/-- `s` with one instruction's words, numbered as spec/opcode_table.json numbers them, as the only words
of the command port's input: what the next step in a state that accepts a command takes (log 8). -/
def State.withFetchWord (s : State) (nbits w : Nat) : State := { s with commands := tableWords nbits w }

end Sys2Proof.Machine
end

