-- ==== Sys2Proof/Machine/PowerOn.lean ====
section
/-! DEFINITION. Power-on (70_reset_and_hazards.md R350, R351): the check of the parameters and the
power-on value of every field (10_state.md R48). -/

namespace Sys2Proof.Machine

/-- Step 1 of R351: the parameters are in range and the tables pass R86. -/
def paramsValid (p : Params) : Bool :=
  decide (1 ≤ p.nphase) && decide (p.nphase ≤ 16) && decide (p.timerPhase < p.nphase) &&
    decide (1 ≤ p.timerRate1) && decide (p.timerRate1 ≤ 2 ^ 32 - 1) &&
    decide (1 ≤ p.timerRate2) && decide (p.timerRate2 ≤ 2 ^ 32 - 1) &&
    tablesValid p.plaRead p.plaWrite

/-- The canonical storage that holds a list of contents; a later entry for a cell wins. -/
def Store.ofCells {n w : Nat} (cells : List (BitVec n × BitVec w)) : Store w :=
  cells.foldl (fun m c => Store.write m c.1.toNat c.2) []

/-- Step 2 of R351: every field at its power-on value (R48). -/
def powerOnFields (p : Params) : State where
  cfg := p
  cycle := 0#64
  nextSeq := 0#64
  queue := []
  sweep := .idle
  ram := Store.ofCells p.ramInit
  color := Store.ofCells p.colorInit
  busByte := p.busInit
  portDdr := 0x00#8
  portData := 0x00#8
  cart := ⟨false, true, true⟩
  cia1 := Cia.reset
  cia2 := Cia.reset
  side := true
  irqLevel := Vector.replicate 16 false
  nmiLevel := Vector.replicate 16 false
  nmiPrev := false
  nmiPending := false
  fault := none
  refusal := none
  commands := []
  output := []
  envCalls := []
  oracle := []
  drawn := 0

/-- The power-on sequence (R351): a failed check leaves the core stopped with `CONFIG_INVALID`. -/
def State.powerOn (p : Params) : State :=
  if paramsValid p then powerOnFields p else (powerOnFields p).raiseFault .configInvalid

end Sys2Proof.Machine
end

