-- ==== Sys2Proof/Safety.lean ====
section
/-! DEFINITION. What a safe run is, and the invariants of the machine's state that the statements use. -/

namespace Sys2Proof.Machine

/-- A safe state: the core has not stopped (60_exceptions.md R311). -/
def Safe (s : State) : Prop := s.stopped = false

/-- RAM and colour RAM are in canonical form. -/
def StorageCanonical (s : State) : Prop := Memory.wf s.ram = true ∧ ColorRam.wf s.color = true

/-- Handles in the queue rise and were all issued: at most one event per handle (10_state.md R23, R24). -/
def QueueOrdered (s : State) : Prop :=
  s.queue.Pairwise (fun e f => e.seq < f.seq) ∧ ∀ e ∈ s.queue, e.seq < s.nextSeq

/-- The event whose callback runs has left the queue (40_scheduler.md R147, R155). -/
def AwaitedGone (s : State) : Prop :=
  ∀ h rem, s.sweep = .await h rem → h < s.nextSeq ∧ ∀ e ∈ s.queue, e.seq ≠ h

/-- The cycles still to advance fit the cycle counter (40_scheduler.md R146, R150). -/
def SweepFits (s : State) : Prop :=
  match s.sweep with
  | .idle => True
  | .sweep rem => s.cycle.toNat + rem.toNat ≤ maxU64
  | .await _ rem => s.cycle.toNat + rem.toNat ≤ maxU64

/-- The cycle at which the `ADVANCE` in progress ends: the cycle and the cycles still to advance
(40_scheduler.md R150). With none in progress it is the cycle. -/
def State.lastCycle (s : State) : Nat :=
  match s.sweep with
  | .idle => s.cycle.toNat
  | .sweep rem => s.cycle.toNat + rem.toNat
  | .await _ rem => s.cycle.toNat + rem.toNat

/-- A unit's tick handle and its tick event name each other, and a unit of a core that has not stopped
has one exactly when it is clocked (10_state.md R41, 42_timer.md R243). -/
def TicksMatched (s : State) : Prop :=
  ∀ c u,
    (∀ h, ((s.cia c).timer u).tick = some h → ∃ e ∈ s.queue, e.seq = h ∧ e.owner = .tick c u) ∧
    (∀ e ∈ s.queue, e.owner = .tick c u → ((s.cia c).timer u).tick = some e.seq) ∧
    (s.stopped = false → (((s.cia c).timer u).tick.isSome = true ↔ clocked (s.cia c) u = true))

/-- Source 0 of each line is its chip's interrupt output, and `nmiPrev` is the NMI OR
(43_interrupts.md R293, R300; 42_timer.md R252, R266). -/
def LevelsMatched (s : State) : Prop :=
  levelOf s.irqLevel 0#4 = s.cia1.ir ∧ levelOf s.nmiLevel 0#4 = s.cia2.ir ∧
    s.nmiPrev = anyAsserted s.nmiLevel

/-- A control register never holds LOAD, nor runs its unit on the CNT pin (42_timer.md R240, R242). -/
def ControlLegal (cr : Byte) : Prop := cr.getLsbD 4 = false ∧ (cr.getLsbD 0 && cr.getLsbD 5) = false

/-- The chips' registers hold what the rules let them hold: legal control registers, and flag bits 4:2
never set (10_state.md R45, 42_timer.md R262). -/
def RegistersLegal (s : State) : Prop :=
  ∀ c, ControlLegal (s.cia c).cra ∧ ControlLegal (s.cia c).crb ∧ (s.cia c).flags.toNat < 4

/-- Without a cartridge both its lines are 1 (10_state.md R32). -/
def CartConsistent (s : State) : Prop :=
  s.cart.present = false → s.cart.exrom = true ∧ s.cart.game = true

/-- The side signal is the level its line has (10_state.md R42). -/
def SideMatched (s : State) : Prop := s.side = sideLevel s.cia1

/-- Every queued event's phase is a phase tag (10_state.md R22). -/
def PhasesLegal (s : State) : Prop := ∀ e ∈ s.queue, e.phase < s.cfg.nphase

/-- The item is a command's response (30_encoding.md R124); the others are events (R125). -/
def Output.isResponse : Output → Bool
  | .readByte _ => true
  | .writeAck => true
  | .scheduled _ => true
  | .cancelAck => true
  | .cycleIs _ => true
  | .done => true
  | .assertAck => true
  | .sampled _ => true
  | .ackAck => true
  | .setbusAck => true
  | .cartAck => true
  | .fire _ _ => false
  | .extWrite _ _ _ => false
  | .extRead _ _ => false
  | .side _ => false
  | .stop _ => false

/-- `k` ticks of one unit (42_timer.md R246), stopping where one stops the core. -/
def tickTimes (c : Chip) (u : TimerId) : Nat → State → Except State State
  | 0, s => .ok s
  | k + 1, s =>
    match tick c u s with
    | .ok t => tickTimes c u k t
    | .error t => .error t

/-- The handles of the `FIRE` events of an output stream, in order. -/
def firedHandles (os : List Output) : List Handle :=
  os.filterMap fun o => match o with
    | .fire h _ => some h
    | _ => none

/-- Every event fires at most once (40_scheduler.md R155): a fired handle was issued, has left the queue,
and has fired once. -/
def FiredOnce (s : State) : Prop :=
  (∀ h ∈ firedHandles s.output, h < s.nextSeq ∧ ∀ e ∈ s.queue, e.seq ≠ h) ∧ (firedHandles s.output).Nodup

/-! ## The illegal encodings (30_encoding.md R122) -/

/-- One of the bits `hi` down to `lo` of a word is 1. -/
def anyBit (w : Word) (hi lo : Nat) : Prop := w.toNat / 2 ^ lo % 2 ^ (hi - lo + 1) ≠ 0

/-- A header word that R122 names illegal, by its OP. -/
def illegalHeader (w : Word) : Prop :=
  match w.toNat / 2 ^ 28 with
  | 0x1 => anyBit w 27 16
  | 0x2 => anyBit w 27 24
  | 0x3 => anyBit w 23 16
  | 0x4 | 0x5 | 0x7 => anyBit w 27 0
  | 0x6 => False
  | 0x8 => anyBit w 27 13 ∨ anyBit w 11 9 ∨ anyBit w 7 4 ∨ w.toNat % 16 = 0
  | 0x9 => anyBit w 27 9 ∨ anyBit w 7 0
  | 0xA => anyBit w 27 9 ∨ anyBit w 7 0 ∨ ¬ anyBit w 8 8
  | 0xB => anyBit w 27 8
  | 0xC => anyBit w 27 3 ∨ (¬ anyBit w 2 2 ∧ w.toNat % 4 ≠ 3)
  | _ => True

/-- The instruction is one of the four reserved OPs. -/
def isReservedOp : Instr → Bool
  | .reservedOp0 _ | .reservedOpD _ | .reservedOpE _ | .reservedOpF _ => true
  | _ => false

/-! ## The complete map (20_memory.md R84) -/

/-- A cell of R84's table: what a region reads from and writes to. -/
structure MapCell where
  read : Target
  write : Target
  deriving DecidableEq, Repr

/-- The cell `RAM` of R84's table. -/
def MapCell.ram : MapCell := ⟨.bank .ram, .bank .ram⟩

/-- The cell `ROMH / w RAM` of R84's table. -/
def MapCell.romhRam : MapCell := ⟨.bank (.ext .romh), .bank .ram⟩

/-- The cell `CHAR / w RAM` of R84's table. -/
def MapCell.char : MapCell := ⟨.bank .char, .bank .ram⟩

/-- The cell `KERNAL / w RAM` of R84's table. -/
def MapCell.kernal : MapCell := ⟨.bank .kernal, .bank .ram⟩

/-- The cell `ROML / w RAM` of R84's table. -/
def MapCell.romlRam : MapCell := ⟨.bank (.ext .roml), .bank .ram⟩

/-- The cell `IO` of R84's table. -/
def MapCell.io : MapCell := ⟨.io, .io⟩

/-- The cell `BASIC / w RAM` of R84's table. -/
def MapCell.basic : MapCell := ⟨.bank .basic, .bank .ram⟩

/-- The cell `OPEN` of R84's table. -/
def MapCell.openBus : MapCell := ⟨.bank .openBus, .bank .openBus⟩

/-- The cell `ROML` of R84's table. -/
def MapCell.roml : MapCell := ⟨.bank (.ext .roml), .bank (.ext .roml)⟩

/-- The cell `ROMH` of R84's table. -/
def MapCell.romh : MapCell := ⟨.bank (.ext .romh), .bank (.ext .romh)⟩

/-- The rows 0 to 15 of the complete map (20_memory.md R84): the columns are `mapColumn`'s. -/
def mapRowsLow : List (List MapCell) := [
  [.ram, .ram, .ram, .ram, .ram, .ram, .ram],
  [.ram, .ram, .ram, .ram, .ram, .ram, .ram],
  [.ram, .ram, .ram, .romhRam, .ram, .char, .kernal],
  [.ram, .ram, .romlRam, .romhRam, .ram, .char, .kernal],
  [.ram, .ram, .ram, .ram, .ram, .ram, .ram],
  [.ram, .ram, .ram, .ram, .ram, .io, .ram],
  [.ram, .ram, .ram, .romhRam, .ram, .io, .kernal],
  [.ram, .ram, .romlRam, .romhRam, .ram, .io, .kernal],
  [.ram, .ram, .ram, .ram, .ram, .ram, .ram],
  [.ram, .ram, .ram, .ram, .ram, .char, .ram],
  [.ram, .ram, .ram, .ram, .ram, .char, .kernal],
  [.ram, .ram, .romlRam, .basic, .ram, .char, .kernal],
  [.ram, .ram, .ram, .ram, .ram, .ram, .ram],
  [.ram, .ram, .ram, .ram, .ram, .io, .ram],
  [.ram, .ram, .ram, .ram, .ram, .io, .kernal],
  [.ram, .ram, .romlRam, .basic, .ram, .io, .kernal]]

/-- The rows 16 to 31 of the complete map (R84). -/
def mapRowsHigh : List (List MapCell) := [
  [.ram, .openBus, .roml, .openBus, .openBus, .io, .romh],
  [.ram, .openBus, .roml, .openBus, .openBus, .io, .romh],
  [.ram, .openBus, .roml, .openBus, .openBus, .io, .romh],
  [.ram, .openBus, .roml, .openBus, .openBus, .io, .romh],
  [.ram, .openBus, .roml, .openBus, .openBus, .io, .romh],
  [.ram, .openBus, .roml, .openBus, .openBus, .io, .romh],
  [.ram, .openBus, .roml, .openBus, .openBus, .io, .romh],
  [.ram, .openBus, .roml, .openBus, .openBus, .io, .romh],
  [.ram, .ram, .ram, .ram, .ram, .ram, .ram],
  [.ram, .ram, .ram, .ram, .ram, .char, .ram],
  [.ram, .ram, .ram, .ram, .ram, .char, .kernal],
  [.ram, .ram, .ram, .basic, .ram, .char, .kernal],
  [.ram, .ram, .ram, .ram, .ram, .ram, .ram],
  [.ram, .ram, .ram, .ram, .ram, .io, .ram],
  [.ram, .ram, .ram, .ram, .ram, .io, .kernal],
  [.ram, .ram, .ram, .basic, .ram, .io, .kernal]]

/-- R84's table, the row of mode `m` at index `m`. -/
def mapRows : List (List MapCell) := mapRowsLow ++ mapRowsHigh

/-- The column of R84's table an address stands in. -/
def mapColumn (a : Addr) : Nat :=
  let n := a.toNat
  if n < 0x1000 then 0
  else if n < 0x8000 then 1
  else if n < 0xA000 then 2
  else if n < 0xC000 then 3
  else if n < 0xD000 then 4
  else if n < 0xE000 then 5
  else 6

/-- The Bank of an address in a visible I/O block (20_memory.md R81). -/
def ioMap (present : Bool) (a : Addr) : Bank :=
  let n := a.toNat
  if n < 0xD400 then .ext .vic
  else if n < 0xD800 then .ext .sid
  else if n < 0xDC00 then .color
  else if n < 0xDD00 then .cia1
  else if n < 0xDE00 then .cia2
  else if present then (if n < 0xDF00 then .ext .io1 else .ext .io2)
  else .openBus

/-- The Bank a target stands for at an address. -/
def targetBank (present : Bool) (a : Addr) : Target → Bank
  | .bank b => b
  | .io => ioMap present a

/-! ## What instructions store to and which stops they may raise -/

/-- The address of RAM an instruction stores to, in a state: the address of a `WRITE` that reaches RAM. -/
def ramStore (s : State) : Instr → Option Addr
  | .writeRam a _ => some a
  | .write a _ => if writeBank s.mapConfig a = some .ram then some a else none
  | _ => none

/-- The nibble of colour RAM an instruction stores to, in a state. -/
def colorStore (s : State) : Instr → Option (BitVec 10)
  | .writeColor a _ => some (colorIndex a)
  | .write a _ => if writeBank s.mapConfig a = some .color then some (colorIndex a) else none
  | _ => none

/-- The instruction may change what the router binds: a write of the CPU I/O port, or `CART`. -/
def rebinds : Instr → Bool
  | .writePortDdr _ | .writePortData _ | .cart _ _ _ => true
  | .write a _ => isPortAddr a
  | _ => false

/-- The faults an instruction may raise (60_exceptions.md R313). A row has those of its own access. -/
def faultsOf : Instr → List FaultCode
  | .write _ _ => [.unsupportedOperation, .cycleOverflow, .seqOverflow]
  | .writeRom _ _ => [.unsupportedOperation]
  | .writeCiaCr _ _ _ => [.cycleOverflow, .seqOverflow]
  | .schedule _ _ _ => [.negativeDelay, .badPhase, .cycleOverflow, .seqOverflow]
  | .cancel _ => [.badHandle]
  | .advance _ => [.reentrantAdvance, .cycleOverflow]
  | .ret => [.unexpectedReturn]
  | .reservedOp0 _ | .reservedOpD _ | .reservedOpE _ | .reservedOpF _ => [.illegalCommand]
  | _ => []

/-- The refusals an instruction may raise (60_exceptions.md R313). -/
def refusalsOf : Instr → List RefusalCode
  | .read _ => [.unmodelledReg]
  | .write _ _ => [.unmodelledReg, .cntMode]
  | .readCiaTod _ _ | .writeCiaTod _ _ _ | .readCiaSdr _ _ | .writeCiaSdr _ _ _ => [.unmodelledReg]
  | .writeCiaCr _ _ _ => [.cntMode]
  | _ => []

/-- The offset of a timer chip register the core refuses (42_timer.md R262). -/
def refusedOffset (a : Addr) : Prop := 0x8 ≤ a.toNat % 16 ∧ a.toNat % 16 ≤ 0xC

end Sys2Proof.Machine
end

