-- ==== Sys2Proof/Certificates/Slice0/Obligations.lean ====
section
/-! DEFINITION. The statements for the provers. Each docstring names the rules of spec/ a statement
formalises, or the log entry a clause rests on. -/

open Sys2Proof Sys2Proof.Machine

/-! ## Encoding (30_encoding.md) -/

/-- Words written out from the formats of R113 to R121, among them the examples of R128. -/
def Obligations.SpecWordsDecode : Prop :=
  decode [0x1000DC0D#32] = .ok (.read 0xDC0D#16, []) ∧
  decode [0x2011DC0E#32] = .ok (.write 0xDC0E#16 0x11#8, []) ∧
  decode [0x31000001#32, 0x00000002#32, 0x00000000#32] = .ok (.schedule 2#64 1#4 1#16, []) ∧
  decode [0x40000000#32, 0x00000003#32, 0x00000001#32] = .ok (.cancel 0x100000003#64, []) ∧
  decode [0x50000000#32, 0x60000064#32] = .ok (.cycle, [0x60000064#32]) ∧
  decode [0x60000064#32] = .ok (.advance 100#28, []) ∧
  decode [0x70000000#32] = .ok (.ret, []) ∧
  decode [0x80001101#32] = .ok (.assert .nmi 1#4 true, []) ∧
  decode [0x90000000#32] = .ok (.sample .irq, []) ∧
  decode [0xA0000100#32] = .ok (.ack, []) ∧
  decode [0xB0000042#32] = .ok (.setbus 0x42#8, []) ∧
  decode [0xC0000005#32] = .ok (.cart true false true, []) ∧
  decode [0x30000001#32, 0x00000002#32] = .error .incomplete

/-- Every well-formed command's words decode to it, whatever follows them (R111 to R123). -/
def Obligations.EncodedCommandsDecode : Prop :=
  ∀ (i : Instr) (rest : List Word), i.wf = true → i.isCommand = true →
    decode (encode i ++ rest) = .ok (i, rest)

/-- Every well-formed row's words decode to its command, and that command reaches the row in every
configuration that satisfies the row's condition (R126). -/
def Obligations.EncodedRowsReachTheirRow : Prop :=
  ∀ (c : MapConfig) (i : Instr) (rest : List Word), i.wf = true → rowSelected c i = true →
    decode (encode i ++ rest) = .ok (i.command, rest) ∧ target c i.command = i

/-- Words that decode are the encoding of the well-formed command they decode to: no bit of a word is
dropped (R111 to R123). -/
def Obligations.DecodedWordsEncode : Prop :=
  ∀ (ws : List Word) (i : Instr) (rest : List Word), decode ws = .ok (i, rest) →
    i.wf = true ∧ i.isCommand = true ∧ ws = encode i ++ rest

/-- R123: the operands of a decoded command, as numbers. -/
def Obligations.OperandsAssembled : Prop :=
  ∀ (w x0 x1 : Word) (i : Instr), decodeWords w x0 x1 = .ok i →
    match i with
    | .read a => a.toNat = w.toNat % 2 ^ 16
    | .write a v => a.toNat = w.toNat % 2 ^ 16 ∧ v.toNat = w.toNat / 2 ^ 16 % 2 ^ 8
    | .schedule d p t =>
      d.toInt = (x1.toNat * 2 ^ 32 + x0.toNat : Int) - (if x1.getLsbD 31 then 2 ^ 64 else 0) ∧
        p.toNat = w.toNat / 2 ^ 24 % 2 ^ 4 ∧ t.toNat = w.toNat % 2 ^ 16
    | .cancel h => h.toNat = x1.toNat * 2 ^ 32 + x0.toNat
    | .advance n => n.toNat = w.toNat % 2 ^ 28
    | .assert l src b => b = w.getLsbD 12 ∧ (l = .nmi ↔ w.getLsbD 8 = true) ∧ src.toNat = w.toNat % 2 ^ 4
    | .sample l => l = .nmi ↔ w.getLsbD 8 = true
    | .setbus b => b.toNat = w.toNat % 2 ^ 8
    | .cart p e g => p = w.getLsbD 2 ∧ e = w.getLsbD 1 ∧ g = w.getLsbD 0
    | _ => True

/-- R122: a core that takes a command and finds one of the encodings R122 names raises
`ILLEGAL_COMMAND`: nothing changes but the fault and the `STOP` (and the model's own `commands`, whose
words are taken, log 19). The four reserved OPs do so as instructions too. -/
def Obligations.IllegalCommandStops : Prop :=
  (∀ (s : State) (f : Fetched), s.accepts = true → fetch s.commands = some f → illegalHeader f.w →
    step s = .next { s with
      commands := f.rest, fault := some .illegalCommand, output := s.output ++ [.stop 0x01#8] }) ∧
  (∀ (s : State) (i : Instr), isReservedOp i = true →
    exec i s = .next { s with fault := some .illegalCommand, output := s.output ++ [.stop 0x01#8] })

/-- The words R122 does not name illegal are a well-formed command, not a reserved OP. -/
def Obligations.LegalWordsAreCommands : Prop :=
  ∀ w x0 x1 : Word, ¬ illegalHeader w →
    ∃ i, decodeWords w x0 x1 = .ok i ∧ i.wf = true ∧ i.isCommand = true ∧ isReservedOp i = false

/-- A step runs the decoded instruction: in a state that accepts a command (R110), `step` is `exec` of
the row the decoded command reaches (R126), once the command's words are taken from the input (log 8). -/
def Obligations.StepRunsDecodedInstruction : Prop :=
  ∀ (s : State) (i : Instr) (rest : List Word), s.accepts = true → decode s.commands = .ok (i, rest) →
    step s = exec (target s.mapConfig i) { s with commands := rest }

/-- The two stages of R126 agree: the row a command reaches does what the command does (R180, R181). -/
def Obligations.TargetRowIsTheAccess : Prop :=
  ∀ (i : Instr) (s : State), exec (target s.mapConfig i) s = exec i s

/-- Steps that take no command: none after a stop (R311; the two outcomes are log 10), one sweep action in
`SWEEP` (R110, R147), and none while no complete command is there (log 8). -/
def Obligations.StepsWithoutACommand : Prop :=
  (∀ (s : State) (c : FaultCode), s.fault = some c → step s = .fault (.stopped c)) ∧
  (∀ (s : State) (c : RefusalCode), s.fault = none → s.refusal = some c → step s = .refused (.stopped c)) ∧
  (∀ (s : State) (rem : BitVec 64), s.stopped = false → s.sweep = .sweep rem → step s = .next (sweepStep rem s)) ∧
  (∀ s : State, s.accepts = true → fetch s.commands = none → step s = .next s)

/-! ## Power-on (10_state.md R48, 70_reset_and_hazards.md R350 to R353) -/

/-- R48: every field's power-on value, for every admissible choice of the parameters, with mode number 31;
a RAM or colour RAM cell has the value given for it (the last one, where a list gives several; the
lists' form and the value of a cell they leave out are the model's, logs 2 and 3). -/
def Obligations.PowerOnValues : Prop :=
  ∀ p : Params, paramsValid p = true →
    let s := State.powerOn p
    s.cycle = 0#64 ∧ s.nextSeq = 0#64 ∧ s.queue = [] ∧ s.sweep = .idle ∧
    (∀ a : Addr, Memory.read s.ram a = ((p.ramInit.reverse.find? fun c => c.1 == a).map (·.2)).getD (unlisted 8)) ∧
    (∀ k : BitVec 10,
      ColorRam.read s.color k = ((p.colorInit.reverse.find? fun c => c.1 == k).map (·.2)).getD (unlisted 4)) ∧
    s.busByte = p.busInit ∧ s.portDdr = 0x00#8 ∧ s.portData = 0x00#8 ∧
    s.cart.present = false ∧ s.cart.exrom = true ∧ s.cart.game = true ∧
    (∀ c : Chip,
      (s.cia c).pra = 0x00#8 ∧ (s.cia c).prb = 0x00#8 ∧ (s.cia c).ddra = 0x00#8 ∧ (s.cia c).ddrb = 0x00#8 ∧
      (∀ u : TimerId, ((s.cia c).timer u).counter = 0xFFFF#16 ∧ ((s.cia c).timer u).latch = 0xFFFF#16 ∧
        ((s.cia c).timer u).tick = none ∧ (s.cia c).control u = 0x00#8) ∧
      (s.cia c).mask = 0#5 ∧ (s.cia c).flags = 0#5 ∧ (s.cia c).ir = false) ∧
    s.side = true ∧
    (∀ (l : Line) (i : BitVec 4), levelOf (s.levels l) i = false) ∧
    s.nmiPrev = false ∧ s.nmiPending = false ∧ s.fault = none ∧ s.refusal = none ∧
    s.mode = 31 ∧ s.output = []

/-- R351: power-on stops with `CONFIG_INVALID` exactly when a parameter is out of range or a table fails
R86's check; the other fields still take their power-on values, and the core takes no command. -/
def Obligations.PowerOnRejectsBadParameters : Prop :=
  ∀ p : Params,
    ((State.powerOn p).fault = none ↔
      1 ≤ p.nphase ∧ p.nphase ≤ 16 ∧ p.timerPhase < p.nphase ∧
      (∀ c : Chip, 1 ≤ timerRate p c ∧ timerRate p c ≤ 2 ^ 32 - 1) ∧ tablesValid p.plaRead p.plaWrite = true) ∧
    ((State.powerOn p).fault ≠ none →
      State.powerOn p = { powerOnFields p with fault := some .configInvalid, output := [.stop 0x0B#8] } ∧
      step (State.powerOn p) = .fault (.stopped .configInvalid))

/-- What the check of binding tables asks (R86; that `IO` stands in region 0xD only is log 14), and what it
gives: under tables that pass, every address is backed by exactly one Bank for a read and one for a
write (R70), `PORT` at the port addresses only (R83). The default write table sends region 0xD to `IO`
where the read table in force reads it as `IO`, else to RAM (R82; that it is the table in force is log
22), and so passes beside every read table that does. -/
def Obligations.TableCheckBindsEveryAddress : Prop :=
  (∀ rt wt : Option BindingTable, tablesValid rt wt = true ↔
    (∀ t : BindingTable, rt = some t ∨ wt = some t → ∀ row < 64, ∀ r < 16,
      (∃ b, b ≠ Bank.port ∧ t.region row r = some (.bank b)) ∨
      (r = 0xD ∧ t.region row r = some .io ∧ ∀ pg < 16, ∃ b, b ≠ Bank.port ∧ t.page row pg = some (.bank b))) ∧
    (∀ row < 64, readRegion rt (PlaInputs.ofRow row) 0xD#4 = some .io ↔
      writeRegion rt wt (PlaInputs.ofRow row) 0xD#4 = some .io)) ∧
  (∀ (rt : Option BindingTable) (p : PlaInputs),
    writeRegion rt none p 0xD#4 = (if readRegion rt p 0xD#4 = some .io then some .io else some (.bank .ram)) ∧
    tablesValid rt none = tablesValid rt rt) ∧
  (∀ (c : MapConfig) (a : Addr), tablesValid c.plaRead c.plaWrite = true →
    ∃ b b', readBank c a = some b ∧ writeBank c a = some b' ∧
      (b = .port ↔ isPortAddr a = true) ∧ (b' = .port ↔ isPortAddr a = true))

/-- The invariants stated below hold at `State.reset`, which is power-on with the default parameters. -/
def Obligations.InvariantsHoldAtReset : Prop :=
  StorageCanonical State.reset ∧ QueueOrdered State.reset ∧ AwaitedGone State.reset ∧ PhasesLegal State.reset ∧
  TicksMatched State.reset ∧ LevelsMatched State.reset ∧ RegistersLegal State.reset ∧
  CartConsistent State.reset ∧ SideMatched State.reset ∧ SweepFits State.reset ∧ FiredOnce State.reset ∧
  State.reset = State.powerOn Params.default ∧ paramsValid Params.default = true

/-! ## The router (20_memory.md) -/

/-- R84 and R81: under the default tables every access reaches the Bank of the complete map's cell, in every
one of the 32 modes, with or without a cartridge; the mode number is R78's. -/
def Obligations.DefaultMapOfEveryMode : Prop :=
  ∀ (s : State) (a : Addr), s.cfg.plaRead = none → s.cfg.plaWrite = none →
    (∀ i < 3, s.mode.testBit i = if s.portDdr.getLsbD i then s.portData.getLsbD i else true) ∧
    s.mode.testBit 3 = s.cart.game ∧ s.mode.testBit 4 = s.cart.exrom ∧ s.mode < 32 ∧
    (isPortAddr a = true → readBank s.mapConfig a = some .port ∧ writeBank s.mapConfig a = some .port) ∧
    (isPortAddr a = false → ∃ row cell, mapRows[s.mode]? = some row ∧ row[mapColumn a]? = some cell ∧
      readBank s.mapConfig a = some (targetBank s.cart.present a cell.read) ∧
      writeBank s.mapConfig a = some (targetBank s.cart.present a cell.write))

/-- The Ultimax configuration (R365): the CPU I/O port does not change the map. -/
def Obligations.UltimaxIgnoresThePort : Prop :=
  ∀ (c : MapConfig) (ddr data : Byte) (a : Addr), c.plaRead = none → c.plaWrite = none →
    c.cart.exrom = true → c.cart.game = false →
    readBank { c with portDdr := ddr, portData := data } a = readBank c a ∧
    writeBank { c with portDdr := ddr, portData := data } a = writeBank c a

/-- The binding law (R201, R85): only a write of 0x0000 or 0x0001 and `CART` change what an address is
bound to; no other instruction and no sweep step does, and the parameters never change. -/
def Obligations.OnlyPortAndCartRebind : Prop :=
  (∀ (i : Instr) (s t : State), exec i s = .next t → rebinds i = false → t.mapConfig = s.mapConfig) ∧
  (∀ (rem : BitVec 64) (s : State), (sweepStep rem s).mapConfig = s.mapConfig) ∧
  (∀ s t : State, step s = .next t → t.cfg = s.cfg)

/-! ## Bank reads and writes (41_address_space.md) -/

/-- R186 to R188: the CPU I/O port. A read of 0x0001 mixes the driven and the input lines, line by line; a
write, as a row and as a `WRITE`, changes its register only (RAM is not written), and the bindings are
computed from the new value. -/
def Obligations.CpuPortAccess : Prop :=
  (∀ s : State,
    exec .readPortDdr s = .next { s with output := s.output ++ [.readByte s.portDdr] } ∧
    ∃ b : Byte,
      (∀ i < 8, b.getLsbD i =
        if s.portDdr.getLsbD i then s.portData.getLsbD i else if i < 3 then true else s.drawValue.getLsbD i) ∧
      exec .readPortData s = .next { s with
        output := s.output ++ [.readByte b], oracle := s.oracle.tail, drawn := s.drawn + 1 }) ∧
  (∀ (s : State) (v : Byte),
    exec (.writePortDdr v) s = .next { s with portDdr := v, output := s.output ++ [.writeAck] } ∧
    exec (.write 0x0000#16 v) s = .next { s with portDdr := v, output := s.output ++ [.writeAck] } ∧
    exec (.writePortData v) s = .next { s with portData := v, output := s.output ++ [.writeAck] } ∧
    exec (.write 0x0001#16 v) s = .next { s with portData := v, output := s.output ++ [.writeAck] })

/-- R182, R183: reads and writes of RAM. A read answers the byte; a write stores it at its own address
and leaves every other byte and every other part of the state. -/
def Obligations.RamReadAndWrite : Prop :=
  ∀ (s : State) (a : Addr) (v : Byte), StorageCanonical s →
    exec (.readRam a) s = .next { s with output := s.output ++ [.readByte (Memory.read s.ram a)] } ∧
    ∃ ram', Memory.read ram' a = v ∧ (∀ b, b ≠ a → Memory.read ram' b = Memory.read s.ram b) ∧
      exec (.writeRam a v) s = .next { s with ram := ram', output := s.output ++ [.writeAck] }

/-- R184, R185: the ROM images are read by the offset from the region's base; a write to a ROM Bank raises
`UNSUPPORTED_OPERATION` and writes nothing, and under the default write table no `WRITE` reaches one. -/
def Obligations.RomAccess : Prop :=
  (∀ (s : State) (a : Addr),
    exec (.readBasic a) s = .next { s with
      output := s.output ++ [.readByte (Store.read s.cfg.romBasic (a.toNat % 8192))] } ∧
    exec (.readKernal a) s = .next { s with
      output := s.output ++ [.readByte (Store.read s.cfg.romKernal (a.toNat % 8192))] } ∧
    exec (.readChar a) s = .next { s with
      output := s.output ++ [.readByte (Store.read s.cfg.romChar (a.toNat % 4096))] }) ∧
  (∀ (s : State) (a : Addr) (v : Byte),
    exec (.writeRom a v) s = .next { s with
      fault := some .unsupportedOperation, output := s.output ++ [.stop 0x09#8] }) ∧
  (∀ (s : State) (a : Addr) (v : Byte) (b : Bank), b = .basic ∨ b = .kernal ∨ b = .char →
    (writeBank s.mapConfig a = some b → exec (.write a v) s = exec (.writeRom a v) s) ∧
    (s.cfg.plaWrite = none → writeBank s.mapConfig a ≠ some b))

/-- R189, R190: colour RAM. A read gives the bus byte's high nibble over the stored nibble; a write stores
the low nibble at its own index and leaves every other nibble and every other part of the state. -/
def Obligations.ColourRamReadAndWrite : Prop :=
  ∀ (s : State) (a : Addr) (v : Byte), StorageCanonical s →
    (∃ b : Byte,
      b.toNat = s.busByte.toNat / 16 * 16 + (ColorRam.read s.color (BitVec.ofNat 10 a.toNat)).toNat ∧
      exec (.readColor a) s = .next { s with output := s.output ++ [.readByte b] }) ∧
    ∃ color', (ColorRam.read color' (BitVec.ofNat 10 a.toNat)).toNat = v.toNat % 16 ∧
      (∀ k, k ≠ BitVec.ofNat 10 a.toNat → ColorRam.read color' k = ColorRam.read s.color k) ∧
      exec (.writeColor a v) s = .next { s with color := color', output := s.output ++ [.writeAck] }

/-- R191, R192, R202: the disconnected bus. A read of any address bound to `OPEN` answers the last driven
byte; a write changes no state and emits nothing but its acknowledgement. -/
def Obligations.DisconnectedBus : Prop :=
  ∀ (s : State) (a : Addr) (v : Byte),
    exec (.readOpen a) s = .next { s with output := s.output ++ [.readByte s.busByte] } ∧
    exec (.writeOpen a v) s = .next { s with output := s.output ++ [.writeAck] } ∧
    (readBank s.mapConfig a = some .openBus →
      exec (.read a) s = .next { s with output := s.output ++ [.readByte s.busByte] }) ∧
    (writeBank s.mapConfig a = some .openBus →
      exec (.write a v) s = .next { s with output := s.output ++ [.writeAck] })

/-- R195 to R197: external Banks. A read emits `EXT_READ` with the Bank's code, takes one answer of the
oracle and responds it; a write emits `EXT_WRITE` with the code, the address and the byte, and changes no
state of the core. The output stream's words are those of R124 and R125. -/
def Obligations.ExternalAccess : Prop :=
  (∀ (s : State) (a : Addr) (i : Instr) (code : Nat),
    (i, code) ∈ [(.readVic a, 1), (.readSid a, 2), (.readRoml a, 3), (.readRomhA a, 4), (.readRomhE a, 4),
      (.readIo1 a, 5), (.readIo2 a, 6)] →
    ∃ out, exec i s = .next { s with output := out, oracle := s.oracle.tail, drawn := s.drawn + 1 } ∧
      out.flatMap Output.words = s.outputWords ++
        [BitVec.ofNat 32 (0xF3000000 + code * 256), BitVec.ofNat 32 a.toNat,
          BitVec.ofNat 32 (0x10000000 + s.drawValue.toNat)]) ∧
  (∀ (s : State) (a : Addr) (v : Byte) (i : Instr) (code : Nat),
    (i, code) ∈ [(.writeVic a v, 1), (.writeSid a v, 2), (.writeRoml a v, 3), (.writeRomhE a v, 4),
      (.writeIo1 a v, 5), (.writeIo2 a v, 6)] →
    ∃ out, exec i s = .next { s with output := out } ∧
      out.flatMap Output.words = s.outputWords ++
        [BitVec.ofNat 32 (0xF2000000 + code * 256 + v.toNat), BitVec.ofNat 32 a.toNat, 0x20000000#32])

/-- `SETBUS`, `CART` and `CYCLE` (R199, R200, R145): the first two write their own field only, `CYCLE`
answers the cycle and writes none. -/
def Obligations.SetbusCartAndCycle : Prop :=
  ∀ (s : State) (b : Byte) (p e g : Bool),
    exec (.setbus b) s = .next { s with busByte := b, output := s.output ++ [.setbusAck] } ∧
    exec (.cart p e g) s = .next { s with
      cart := { present := p, exrom := e, game := g }, output := s.output ++ [.cartAck] } ∧
    exec .cycle s = .next { s with output := s.output ++ [.cycleIs s.cycle] }

/-- The frame of storage: an instruction changes no byte of RAM but the one a `WRITE` that reaches RAM
stores to, and no nibble of colour RAM but the one such a `WRITE` stores to; the bytes 0x0000 and 0x0001
of RAM are reached by no `WRITE` (R83); a sweep step changes none. -/
def Obligations.StorageFrame : Prop :=
  (∀ (i : Instr) (s t : State), exec i s = .next t → StorageCanonical s →
    (∀ b, ramStore s i ≠ some b → Memory.read t.ram b = Memory.read s.ram b) ∧
    (∀ k, colorStore s i ≠ some k → ColorRam.read t.color k = ColorRam.read s.color k)) ∧
  (∀ (s : State) (a : Addr) (v : Byte), ramStore s (.write a v) ≠ some 0x0000#16 ∧
    ramStore s (.write a v) ≠ some 0x0001#16) ∧
  (∀ (rem : BitVec 64) (s : State), (sweepStep rem s).ram = s.ram ∧ (sweepStep rem s).color = s.color)

/-- A `WRITE` that reaches RAM is read back by the next `READ` where the address also reads from RAM, and
leaves the byte of each ROM above it as it was (R89, R92, R362). -/
def Obligations.WriteThenRead : Prop :=
  ∀ (s t : State) (a : Addr) (v : Byte), StorageCanonical s → writeBank s.mapConfig a = some .ram →
    exec (.write a v) s = .next t →
    (readBank s.mapConfig a = some .ram →
      exec (.read a) t = .next { t with output := t.output ++ [.readByte v] }) ∧
    (readBank s.mapConfig a = some .basic →
      exec (.read a) t = .next { t with
        output := t.output ++ [.readByte (Store.read s.cfg.romBasic (a.toNat % 8192))] }) ∧
    (readBank s.mapConfig a = some .kernal →
      exec (.read a) t = .next { t with
        output := t.output ++ [.readByte (Store.read s.cfg.romKernal (a.toNat % 8192))] }) ∧
    (readBank s.mapConfig a = some .char →
      exec (.read a) t = .next { t with
        output := t.output ++ [.readByte (Store.read s.cfg.romChar (a.toNat % 4096))] })

/-- Every `READ` completes with one byte, except at the refused offsets of a timer chip, and every
`WRITE` with its acknowledgement, except there, at a ROM Bank, and at a control register when the value
would run the unit on the CNT pin or would queue a tick past the last cycle or handle (R124, R180, R181;
42_timer.md R240). -/
def Obligations.BusAccessesComplete : Prop :=
  (∀ (s : State) (a : Addr), (readBank s.mapConfig a).isSome = true →
    ((readBank s.mapConfig a = some .cia1 ∨ readBank s.mapConfig a = some .cia2) → ¬ refusedOffset a) →
    ∃ t out b, exec (.read a) s = .next t ∧ t.output = s.output ++ out ++ [.readByte b] ∧
      t.fault = s.fault ∧ t.refusal = s.refusal ∧ t.sweep = s.sweep ∧ t.cycle = s.cycle) ∧
  (∀ (s : State) (a : Addr) (v : Byte) (b : Bank), writeBank s.mapConfig a = some b →
    b ≠ .basic → b ≠ .kernal → b ≠ .char →
    ((b = .cia1 ∨ b = .cia2) → ¬ refusedOffset a ∧ a.toNat % 16 < 0xE) →
    ∃ t out, exec (.write a v) s = .next t ∧ t.output = s.output ++ out ++ [.writeAck] ∧
      t.fault = s.fault ∧ t.refusal = s.refusal ∧ t.sweep = s.sweep ∧ t.cycle = s.cycle) ∧
  (∀ (s : State) (a : Addr) (v : Byte) (c : Chip) (u : TimerId), writeBank s.mapConfig a = some (chipBank c) →
    0xE ≤ a.toNat % 16 → u = (if a.toNat % 16 = 0xE then .a else .b) →
    ¬ (v.getLsbD 0 = true ∧ v.getLsbD 5 = true) →
    (v.getLsbD 0 = true → (u = .b → v.toNat / 32 % 4 = 0) → ((s.cia c).timer u).tick = none →
      s.cycle.toNat + timerRate s.cfg c ≤ 2 ^ 64 - 1 ∧ s.nextSeq.toNat < 2 ^ 64 - 1) →
    ∃ t, exec (.write a v) s = .next t ∧ t.output = s.output ++ [.writeAck] ∧
      t.fault = s.fault ∧ t.refusal = s.refusal ∧ t.sweep = s.sweep ∧ t.cycle = s.cycle)

/-! ## The scheduler (40_scheduler.md) -/

/-- `SCHEDULE` (R140, R143, R314): the event it queues and the handle it answers; its stops in order. -/
def Obligations.ScheduleQueuesAnEvent : Prop :=
  ∀ (s : State) (d : BitVec 64) (p : BitVec 4) (tag : BitVec 16),
    (d.toInt < 0 → exec (.schedule d p tag) s = .next { s with
      fault := some .negativeDelay, output := s.output ++ [.stop 0x02#8] }) ∧
    (0 ≤ d.toInt → s.cfg.nphase ≤ p.toNat → exec (.schedule d p tag) s = .next { s with
      fault := some .badPhase, output := s.output ++ [.stop 0x03#8] }) ∧
    (0 ≤ d.toInt → p.toNat < s.cfg.nphase → 2 ^ 64 - 1 < s.cycle.toNat + d.toNat →
      exec (.schedule d p tag) s = .next { s with
        fault := some .cycleOverflow, output := s.output ++ [.stop 0x04#8] }) ∧
    (0 ≤ d.toInt → p.toNat < s.cfg.nphase → s.cycle.toNat + d.toNat ≤ 2 ^ 64 - 1 →
      s.nextSeq.toNat = 2 ^ 64 - 1 → exec (.schedule d p tag) s = .next { s with
        fault := some .seqOverflow, output := s.output ++ [.stop 0x05#8] }) ∧
    (0 ≤ d.toInt → p.toNat < s.cfg.nphase → s.cycle.toNat + d.toNat ≤ 2 ^ 64 - 1 →
      s.nextSeq.toNat < 2 ^ 64 - 1 → ∃ at' next' : BitVec 64,
        at'.toNat = s.cycle.toNat + d.toNat ∧ next'.toNat = s.nextSeq.toNat + 1 ∧
        exec (.schedule d p tag) s = .next { s with
          queue := s.queue ++ [⟨at', p.toNat, s.nextSeq, .ext tag⟩],
          nextSeq := next',
          output := s.output ++ [.scheduled s.nextSeq] })

/-- `CANCEL` (R144): a handle never issued, a live timer tick, a live external event, and a handle that
has fired or was cancelled. -/
def Obligations.CancelCases : Prop :=
  ∀ (s : State) (h : Handle), QueueOrdered s →
    (s.nextSeq.toNat ≤ h.toNat → exec (.cancel h) s = .next { s with
      fault := some .badHandle, output := s.output ++ [.stop 0x06#8] }) ∧
    (h.toNat < s.nextSeq.toNat → (∀ e ∈ s.queue, e.seq ≠ h) →
      exec (.cancel h) s = .next { s with output := s.output ++ [.cancelAck] }) ∧
    (∀ e ∈ s.queue, e.seq = h →
      (∀ c u, e.owner = .tick c u → exec (.cancel h) s = .next { s with
        fault := some .badHandle, output := s.output ++ [.stop 0x06#8] }) ∧
      (∀ tag, e.owner = .ext tag → ∃ q, (∀ f, f ∈ q ↔ f ∈ s.queue ∧ f ≠ e) ∧ q.Sublist s.queue ∧
        exec (.cancel h) s = .next { s with queue := q, output := s.output ++ [.cancelAck] }))

/-- `ADVANCE` (R146): its two stops in order, and the sweep it starts. -/
def Obligations.AdvanceStartsTheSweep : Prop :=
  ∀ (s : State) (n : BitVec 28),
    (s.sweep ≠ .idle → exec (.advance n) s = .next { s with
      fault := some .reentrantAdvance, output := s.output ++ [.stop 0x07#8] }) ∧
    (s.sweep = .idle → n.toNat = 0 → exec (.advance n) s = .next { s with sweep := .sweep 0#64 }) ∧
    (s.sweep = .idle → n.toNat ≠ 0 → 2 ^ 64 - 1 < s.cycle.toNat + n.toNat →
      exec (.advance n) s = .next { s with
        fault := some .cycleOverflow, output := s.output ++ [.stop 0x04#8] }) ∧
    (s.sweep = .idle → n.toNat ≠ 0 → s.cycle.toNat + n.toNat ≤ 2 ^ 64 - 1 → ∃ c rem : BitVec 64,
      c.toNat = s.cycle.toNat + 1 ∧ rem.toNat = n.toNat - 1 ∧
      exec (.advance n) s = .next { s with cycle := c, sweep := .sweep rem })

/-- `RETURN` (R152). -/
def Obligations.ReturnResumesTheSweep : Prop :=
  ∀ s : State,
    (∀ h rem, s.sweep = .await h rem → exec .ret s = .next { s with sweep := .sweep rem }) ∧
    ((∀ h rem, s.sweep ≠ .await h rem) → exec .ret s = .next { s with
      fault := some .unexpectedReturn, output := s.output ++ [.stop 0x08#8] })

/-- The sweep step fires the least due event in the order of R142 and has removed it from the queue before
(R147): an external event is emitted and awaited (R151), a timer tick is performed (R148). -/
def Obligations.SweepFiresTheLeastDueEvent : Prop :=
  ∀ (s : State) (rem : BitVec 64) (e : Event), s.stopped = false → s.sweep = .sweep rem → QueueOrdered s →
    e ∈ s.queue → e.target.toNat ≤ s.cycle.toNat →
    (∀ f ∈ s.queue, f.target.toNat ≤ s.cycle.toNat → f ≠ e →
      e.target.toNat < f.target.toNat ∨
      (e.target = f.target ∧ (e.phase < f.phase ∨ (e.phase = f.phase ∧ e.seq.toNat < f.seq.toNat)))) →
    ∃ q, (∀ f, f ∈ q ↔ f ∈ s.queue ∧ f ≠ e) ∧ q.Sublist s.queue ∧
      (∀ tag, e.owner = .ext tag → step s = .next { s with
        queue := q, sweep := .await e.seq rem, output := s.output ++ [.fire e.seq tag] }) ∧
      (∀ c u, e.owner = .tick c u → ∃ t, step s = .next t ∧ t.sweep = .sweep rem ∧
        firedHandles t.output = firedHandles s.output ∧
        (fireTick c u { s with queue := q } = .ok t ∨ fireTick c u { s with queue := q } = .error t))

/-- The end of a sweep (R150): with nothing due, the next cycle begins or the `ADVANCE` completes. -/
def Obligations.SweepEndsWhenNothingIsDue : Prop :=
  ∀ (s : State) (rem : BitVec 64), s.stopped = false → s.sweep = .sweep rem →
    (∀ e ∈ s.queue, s.cycle.toNat < e.target.toNat) →
    (rem.toNat = 0 → step s = .next { s with sweep := .idle, output := s.output ++ [.done] }) ∧
    (rem.toNat ≠ 0 → s.cycle.toNat + rem.toNat ≤ 2 ^ 64 - 1 → ∃ c rem' : BitVec 64,
      c.toNat = s.cycle.toNat + 1 ∧ rem'.toNat = rem.toNat - 1 ∧
      step s = .next { s with cycle := c, sweep := .sweep rem' })

/-- When nothing falls due, `ADVANCE n` ends `n` cycles later (R366), changes nothing but the cycle and
answers one `DONE`, after one sweep step for each cycle value it visits (log 16). What it takes when
events fall due is `TimeOnlyMovesByAdvance`. -/
def Obligations.AdvanceWithNothingDue : Prop :=
  ∀ (s : State) (n : BitVec 28), s.stopped = false → s.sweep = .idle →
    s.cycle.toNat + n.toNat ≤ 2 ^ 64 - 1 → (∀ e ∈ s.queue, s.cycle.toNat + n.toNat < e.target.toNat) →
    ∃ t c, exec (.advance n) s = .next t ∧ c.toNat = s.cycle.toNat + n.toNat ∧
      Sys2Proof.core.run (max n.toNat 1) t = .next { s with cycle := c, output := s.output ++ [.done] }

/-- No synchronous firing (R153): no instruction emits a `FIRE`, and none but `ADVANCE` and `RETURN` changes
the sweep state. -/
def Obligations.NoSynchronousFiring : Prop :=
  ∀ (i : Instr) (s t : State), exec i s = .next t →
    firedHandles t.output = firedHandles s.output ∧
    ((∀ n, i ≠ .advance n) → i ≠ .ret → t.sweep = s.sweep)

/-- Time (R21): no instruction but `ADVANCE` changes the cycle, no step decreases it, and an `ADVANCE` in
progress never passes the last cycle (R150). An `ADVANCE n` that starts leaves `n` cycles between the
cycle it found and the last cycle of its sweeps, whatever falls due, and no step of its sweeps and
callbacks changes that last cycle (R366); when the sweep state is `IDLE` again, the cycle is it. -/
def Obligations.TimeOnlyMovesByAdvance : Prop :=
  (∀ (i : Instr) (s t : State), exec i s = .next t → (∀ n, i ≠ .advance n) → t.cycle = s.cycle) ∧
  (∀ s t : State, SweepFits s → step s = .next t → s.cycle.toNat ≤ t.cycle.toNat ∧ SweepFits t) ∧
  (∀ (n : BitVec 28) (s t : State), s.sweep = .idle → s.stopped = false → exec (.advance n) s = .next t →
    t.stopped = false → SweepFits t ∧ t.lastCycle = s.cycle.toNat + n.toNat) ∧
  (∀ s t : State, SweepFits s → s.sweep ≠ .idle → step s = .next t → t.lastCycle = s.lastCycle) ∧
  (∀ s : State, s.sweep = .idle → s.lastCycle = s.cycle.toNat)

/-- At most once (R155), and handles are never used again (R23): an invariant of every step. -/
def Obligations.EventsFireAtMostOnce : Prop :=
  ∀ s t : State, QueueOrdered s → FiredOnce s → step s = .next t →
    FiredOnce t ∧ s.nextSeq.toNat ≤ t.nextSeq.toNat ∧
    ∀ e ∈ t.queue, e ∈ s.queue ∨ s.nextSeq.toNat ≤ e.seq.toNat

/-! ## The timer chips (42_timer.md) -/

/-- Reads of the direction, counter and control registers (R232, R235, R236, R239). -/
def Obligations.TimerRegisterReads : Prop :=
  ∀ (s : State) (c : Chip) (a : Addr),
    ((Instr.readCiaDdr c a).wf = true → exec (.readCiaDdr c a) s = .next { s with
      output := s.output ++ [.readByte (if a.toNat % 16 = 2 then (s.cia c).ddra else (s.cia c).ddrb)] }) ∧
    ((Instr.readCiaTlo c a).wf = true → exec (.readCiaTlo c a) s = .next { s with
      output := s.output ++ [.readByte (BitVec.ofNat 8
        ((if a.toNat % 16 = 4 then (s.cia c).ta.counter else (s.cia c).tb.counter).toNat % 256))] }) ∧
    ((Instr.readCiaThi c a).wf = true → exec (.readCiaThi c a) s = .next { s with
      output := s.output ++ [.readByte (BitVec.ofNat 8
        ((if a.toNat % 16 = 5 then (s.cia c).ta.counter else (s.cia c).tb.counter).toNat / 256))] }) ∧
    ((Instr.readCiaCr c a).wf = true → exec (.readCiaCr c a) s = .next { s with
      output := s.output ++ [.readByte (if a.toNat % 16 = 14 then (s.cia c).cra else (s.cia c).crb)] } ∧
      (RegistersLegal s → ((s.cia c).cra.getLsbD 4 = false ∧ (s.cia c).crb.getLsbD 4 = false)))

/-- R231: a read of a port's data register mixes the driven and the input lines, line by line. -/
def Obligations.TimerPortReads : Prop :=
  ∀ (s : State) (c : Chip) (a : Addr), (Instr.readCiaPr c a).wf = true →
    ∃ b : Byte,
      (∀ i < 8, b.getLsbD i =
        if a.toNat % 16 = 0 then
          (if (s.cia c).ddra.getLsbD i then (s.cia c).pra.getLsbD i else s.drawValue.getLsbD i)
        else (if (s.cia c).ddrb.getLsbD i then (s.cia c).prb.getLsbD i else s.drawValue.getLsbD i)) ∧
      exec (.readCiaPr c a) s = .next { s with
        output := s.output ++ [.readByte b], oracle := s.oracle.tail, drawn := s.drawn + 1 }

/-- R233, R234, R268: writes of the port data and direction registers, and CIA1's side signal, which
follows port B line 4 and is emitted when it changes. -/
def Obligations.TimerPortWrites : Prop :=
  ∀ (s : State) (a : Addr) (v : Byte),
    ((Instr.writeCiaPr .cia2 a v).wf = true → exec (.writeCiaPr .cia2 a v) s = .next { s with
      cia2 := if a.toNat % 16 = 0 then { s.cia2 with pra := v } else { s.cia2 with prb := v },
      output := s.output ++ [.writeAck] }) ∧
    ((Instr.writeCiaDdr .cia2 a v).wf = true → exec (.writeCiaDdr .cia2 a v) s = .next { s with
      cia2 := if a.toNat % 16 = 2 then { s.cia2 with ddra := v } else { s.cia2 with ddrb := v },
      output := s.output ++ [.writeAck] }) ∧
    ((Instr.writeCiaPr .cia1 a v).wf = true →
      (a.toNat % 16 = 0 → exec (.writeCiaPr .cia1 a v) s = .next { s with
        cia1 := { s.cia1 with pra := v }, output := s.output ++ [.writeAck] }) ∧
      (a.toNat % 16 = 1 → ∀ new : Bool, new = (if s.cia1.ddrb.getLsbD 4 then v.getLsbD 4 else true) →
        exec (.writeCiaPr .cia1 a v) s = .next { s with
          cia1 := { s.cia1 with prb := v }, side := new,
          output := s.output ++ (if new = s.side then [] else [.side new]) ++ [.writeAck] })) ∧
    ((Instr.writeCiaDdr .cia1 a v).wf = true →
      (a.toNat % 16 = 2 → exec (.writeCiaDdr .cia1 a v) s = .next { s with
        cia1 := { s.cia1 with ddra := v }, output := s.output ++ [.writeAck] }) ∧
      (a.toNat % 16 = 3 → ∀ new : Bool, new = (if v.getLsbD 4 then s.cia1.prb.getLsbD 4 else true) →
        exec (.writeCiaDdr .cia1 a v) s = .next { s with
          cia1 := { s.cia1 with ddrb := v }, side := new,
          output := s.output ++ (if new = s.side then [] else [.side new]) ++ [.writeAck] }))

/-- R237, R238: a write of a timer's low byte changes the latch only; a write of its high byte changes the
latch, and loads the counter of a stopped unit from the new latch. -/
def Obligations.TimerLatchWrites : Prop :=
  ∀ (s : State) (c : Chip) (a : Addr) (v : Byte) (u : TimerId),
    u = (if a.toNat % 16 < 6 then .a else .b) →
    ((Instr.writeCiaTlo c a v).wf = true → ∃ l : BitVec 16,
      l.toNat = ((s.cia c).timer u).latch.toNat / 256 * 256 + v.toNat ∧
      exec (.writeCiaTlo c a v) s = .next { s.setCia c
        ((s.cia c).setTimer u { (s.cia c).timer u with latch := l }) with output := s.output ++ [.writeAck] }) ∧
    ((Instr.writeCiaThi c a v).wf = true → ∃ l : BitVec 16,
      l.toNat = v.toNat * 256 + ((s.cia c).timer u).latch.toNat % 256 ∧
      exec (.writeCiaThi c a v) s = .next { s.setCia c
        ((s.cia c).setTimer u { (s.cia c).timer u with
          latch := l,
          counter := if ((s.cia c).control u).getLsbD 0 then ((s.cia c).timer u).counter else l }) with
        output := s.output ++ [.writeAck] })

/-- R240, R242, R243: a control register write. It is refused before any write when it would run the unit on
the CNT pin; else it stores all but LOAD, loads the counter when LOAD is set (R241), and starts, stops or
leaves the unit's pending tick. A start that overflows stops the core with the earlier writes in place
(00_scope.md R15). -/
def Obligations.ControlRegisterWrite : Prop :=
  ∀ (s : State) (c : Chip) (a : Addr) (v : Byte) (u : TimerId), (Instr.writeCiaCr c a v).wf = true →
    u = (if a.toNat % 16 = 14 then .a else .b) →
    let loaded := (s.cia c).setTimer u { (s.cia c).timer u with
      counter := if v.getLsbD 4 then ((s.cia c).timer u).latch else ((s.cia c).timer u).counter }
    let written := loaded.setControl u (v &&& 0xEF#8)
    let running := v.getLsbD 0 = true ∧ (u = .b → v.toNat / 32 % 4 = 0)
    let refused := v.getLsbD 0 = true ∧ v.getLsbD 5 = true
    let due := s.cycle.toNat + timerRate s.cfg c
    (refused → exec (.writeCiaCr c a v) s = .next { s with
      refusal := some .cntMode, output := s.output ++ [.stop 0x82#8] }) ∧
    (¬ refused → running → ∀ h, ((s.cia c).timer u).tick = some h →
      exec (.writeCiaCr c a v) s = .next { s.setCia c written with output := s.output ++ [.writeAck] }) ∧
    (¬ refused → running → ((s.cia c).timer u).tick = none →
      (2 ^ 64 - 1 < due → exec (.writeCiaCr c a v) s = .next { s.setCia c written with
        fault := some .cycleOverflow, output := s.output ++ [.stop 0x04#8] }) ∧
      (due ≤ 2 ^ 64 - 1 → s.nextSeq.toNat = 2 ^ 64 - 1 →
        exec (.writeCiaCr c a v) s = .next { s.setCia c written with
          fault := some .seqOverflow, output := s.output ++ [.stop 0x05#8] }) ∧
      (due ≤ 2 ^ 64 - 1 → s.nextSeq.toNat < 2 ^ 64 - 1 → ∃ at' next' : BitVec 64,
        at'.toNat = due ∧ next'.toNat = s.nextSeq.toNat + 1 ∧
        exec (.writeCiaCr c a v) s = .next {
          s.setCia c (written.setTimer u { written.timer u with tick := some s.nextSeq }) with
          queue := s.queue ++ [⟨at', s.cfg.timerPhase, s.nextSeq, .tick c u⟩],
          nextSeq := next',
          output := s.output ++ [.writeAck] })) ∧
    (¬ refused → ¬ running → ((s.cia c).timer u).tick = none →
      exec (.writeCiaCr c a v) s = .next { s.setCia c written with output := s.output ++ [.writeAck] }) ∧
    (¬ refused → ¬ running → ∀ h, ((s.cia c).timer u).tick = some h →
      exec (.writeCiaCr c a v) s = .next {
        s.setCia c (written.setTimer u { written.timer u with tick := none }) with
        queue := s.queue.filter (fun e => decide (e.seq ≠ h)),
        output := s.output ++ [.writeAck] })

/-- R250, R253: the read of the interrupt control register answers the flags and the interrupt output,
clears both, and de-asserts the chip's line when the output was asserted (R266; the Environment call is
recorded, log 21); a second read with nothing between answers 0. -/
def Obligations.IcrReadTestsAndClears : Prop :=
  (∀ (s : State) (c : Chip) (a : Addr), ∃ b : Byte,
    b.toNat = (s.cia c).flags.toNat + (if (s.cia c).ir then 128 else 0) ∧
    exec (.readCiaIcr c a) s = .next
      (let t := s.setCia c { s.cia c with flags := 0#5, ir := false }
       let t' := if (s.cia c).ir then
          { t with envCalls := s.envCalls ++ [(c, false)] }.assertLine
            (match c with | .cia1 => .irq | .cia2 => .nmi) 0#4 false
         else t
       { t' with output := s.output ++ [.readByte b] })) ∧
  (∀ (s t t' : State) (c : Chip) (a a' : Addr), exec (.readCiaIcr c a) s = .next t →
    exec (.readCiaIcr c a') t = .next t' → t' = { t with output := t.output ++ [.readByte 0x00#8] })

/-- R251: the write of the interrupt mask sets or clears the selected bits, and asserts the interrupt
output at once when it enables a flag already set (R266; the Environment call is recorded, log 21). -/
def Obligations.IcrWriteSetsTheMask : Prop :=
  ∀ (s : State) (c : Chip) (a : Addr) (v : Byte), ∃ m : BitVec 5,
    (∀ i < 5, m.getLsbD i = if v.getLsbD i then v.getLsbD 7 else (s.cia c).mask.getLsbD i) ∧
    exec (.writeCiaIcr c a v) s = .next
      (let t := s.setCia c { s.cia c with mask := m }
       let t' := if m &&& (s.cia c).flags ≠ 0#5 ∧ (s.cia c).ir = false then
          { s.setCia c { s.cia c with mask := m, ir := true } with
            envCalls := s.envCalls ++ [(c, true)] }.assertLine
            (match c with | .cia1 => .irq | .cia2 => .nmi) 0#4 true
         else t
       { t' with output := s.output ++ [.writeAck] })

/-- R262: every access of the time-of-day clock and of the serial register is refused
`RF_UNMODELLED_REG`, before any write. -/
def Obligations.UnmodelledRegistersRefuse : Prop :=
  ∀ (s : State) (c : Chip) (a : Addr) (v : Byte) (i : Instr),
    i ∈ [.readCiaTod c a, .writeCiaTod c a v, .readCiaSdr c a, .writeCiaSdr c a v] ∨
      (refusedOffset a ∧ ((readBank s.mapConfig a = some (chipBank c) ∧ i = .read a) ∨
        (writeBank s.mapConfig a = some (chipBank c) ∧ i = .write a v))) →
    exec i s = .next { s with refusal := some .unmodelledReg, output := s.output ++ [.stop 0x81#8] }

/-- R246: a unit whose counter holds `n` counts down one a tick, so that its `n`-th tick is the one that
finds the counter at 1; the ticks before it are no expiry (they set no flag and call no Environment, log
21). What a tick at 1 or 0 does is `ExpiryEffects`. -/
def Obligations.TicksCountDown : Prop :=
  ∀ (s : State) (c : Chip) (u : TimerId) (k : Nat), k < ((s.cia c).timer u).counter.toNat →
    ∃ n : BitVec 16, n.toNat = ((s.cia c).timer u).counter.toNat - k ∧
      tickTimes c u k s = .ok (s.setCia c ((s.cia c).setTimer u { (s.cia c).timer u with counter := n })) ∧
      (n.toNat ≠ 1 → ∃ t, tick c u (s.setCia c ((s.cia c).setTimer u { (s.cia c).timer u with counter := n })) = .ok t ∧
        (t.cia c).flags = (s.cia c).flags ∧ t.envCalls = s.envCalls)

/-- R248, R249: an expiry, at a tick that finds the counter at 1 or 0. The sticky flag is set; a
continuous unit reloads, a one-shot unit stops at 0 and loses its pending tick; the chip's line is
asserted when the mask bit is 1 (R266; the Environment call is recorded, log 21); then an expiry of unit A
ticks unit B when CRB selects it. -/
def Obligations.ExpiryEffects : Prop :=
  ∀ (s : State) (c : Chip) (u : TimerId), ((s.cia c).timer u).counter.toNat ≤ 1 →
    let x := { s.cia c with flags := (s.cia c).flags ||| (match u with | .a => 0b00001#5 | .b => 0b00010#5) }
    let oneShot := ((s.cia c).control u).getLsbD 3 = true
    let x' := if oneShot then
        (x.setTimer u { (x.timer u) with counter := 0#16, tick := none }).setControl u
          ((s.cia c).control u &&& 0xFE#8)
      else x.setTimer u { x.timer u with counter := (x.timer u).latch }
    let q := match ((s.cia c).timer u).tick with
      | some h => if oneShot then s.queue.filter (fun e => decide (e.seq ≠ h)) else s.queue
      | none => s.queue
    let t := { s.setCia c x' with queue := q }
    let t' := if (s.cia c).mask.getLsbD (match u with | .a => 0 | .b => 1) then
        { t.setCia c { x' with ir := true } with envCalls := s.envCalls ++ [(c, true)] }.assertLine
          (match c with | .cia1 => .irq | .cia2 => .nmi) 0#4 true
      else t
    tick c u s =
      if u = .a ∧ (s.cia c).crb.getLsbD 0 = true ∧ (s.cia c).crb.toNat / 32 % 4 = 2 then tick c .b t'
      else .ok t'

/-- R247: firing a tick event ticks the unit, whose event the sweep has removed, and a unit still counting
cycle ticks gets its next tick `TIMER_RATE` cycles later. -/
def Obligations.TickEventRepeats : Prop :=
  ∀ (s t : State) (c : Chip) (u : TimerId),
    tick c u (s.setCia c ((s.cia c).setTimer u { (s.cia c).timer u with tick := none })) = .ok t →
    let running := ((t.cia c).control u).getLsbD 0 = true ∧ (u = .b → (t.cia c).crb.toNat / 32 % 4 = 0)
    (¬ running → fireTick c u s = .ok t) ∧
    (running → s.cycle.toNat + timerRate s.cfg c ≤ 2 ^ 64 - 1 → s.nextSeq.toNat < 2 ^ 64 - 1 →
      ∃ at' next' : BitVec 64, at'.toNat = s.cycle.toNat + timerRate s.cfg c ∧
        next'.toNat = s.nextSeq.toNat + 1 ∧
        fireTick c u s = .ok { t.setCia c
          ((t.cia c).setTimer u { (t.cia c).timer u with tick := some s.nextSeq }) with
          queue := t.queue ++ [⟨at', s.cfg.timerPhase, s.nextSeq, .tick c u⟩],
          nextSeq := next' }) ∧
    (running → 2 ^ 64 - 1 < s.cycle.toNat + timerRate s.cfg c →
      fireTick c u s = .error { t with fault := some .cycleOverflow, output := t.output ++ [.stop 0x04#8] }) ∧
    (running → s.cycle.toNat + timerRate s.cfg c ≤ 2 ^ 64 - 1 → s.nextSeq.toNat = 2 ^ 64 - 1 →
      fireTick c u s = .error { t with fault := some .seqOverflow, output := t.output ++ [.stop 0x05#8] })

/-- The periodic law in ticks (R254): a continuous unit whose counter and latch hold `L` expires at its
`k*L`-th ticks and at no other: after `k*L + j` ticks (`j < L`) the counter is `L - j`, and the
Environment has been called exactly `k` times when the mask bit is 1, not at all when it is 0 (log 21). -/
def Obligations.PeriodicExpiry : Prop :=
  ∀ (s : State) (c : Chip) (u : TimerId) (k j : Nat),
    ((s.cia c).timer u).counter = ((s.cia c).timer u).latch →
    ((s.cia c).control u).getLsbD 3 = false → (u = .a → cascaded (s.cia c) = false) →
    j < ((s.cia c).timer u).latch.toNat →
    ∃ t, tickTimes c u (k * ((s.cia c).timer u).latch.toNat + j) s = .ok t ∧
      ((t.cia c).timer u).counter.toNat = ((s.cia c).timer u).latch.toNat - j ∧
      (t.cia c).flags = (if k = 0 then (s.cia c).flags else setFlag (s.cia c).flags u) ∧
      t.envCalls = s.envCalls ++
        List.replicate (if (s.cia c).mask.getLsbD (timerBit u) then k else 0) (c, true)

/-! ## The interrupt lines (43_interrupts.md) -/

/-- `ASSERT` (R291 to R293): it sets its own source's level and no other; on NMI, a 0 to 1 transition of the
OR sets the pending NMI, and `nmiPrev` is the OR. -/
def Obligations.AssertSetsOneLevel : Prop :=
  ∀ (s : State) (src : BitVec 4) (b : Bool),
    (∃ lv : Levels, (∀ j, levelOf lv j = if j = src then b else levelOf s.irqLevel j) ∧
      exec (.assert .irq src b) s = .next { s with irqLevel := lv, output := s.output ++ [.assertAck] }) ∧
    (∃ (lv : Levels) (any : Bool), (∀ j, levelOf lv j = if j = src then b else levelOf s.nmiLevel j) ∧
      (any = true ↔ ∃ j, levelOf lv j = true) ∧
      exec (.assert .nmi src b) s = .next { s with
        nmiLevel := lv, nmiPrev := any,
        nmiPending := (s.nmiPending || (any && !s.nmiPrev)), output := s.output ++ [.assertAck] })

/-- `SAMPLE` and `ACK NMI` (R294 to R297): IRQ is the OR of its sources, whatever led to them, NMI the
pending edge; sampling changes nothing, and the wires say the same. -/
def Obligations.SampleAndAcknowledge : Prop :=
  ∀ s : State,
    (∃ v : Bool, (v = true ↔ ∃ j, levelOf s.irqLevel j = true) ∧ s.irqOut = v ∧
      exec (.sample .irq) s = .next { s with output := s.output ++ [.sampled v] }) ∧
    s.nmiOut = s.nmiPending ∧
    exec (.sample .nmi) s = .next { s with output := s.output ++ [.sampled s.nmiPending] } ∧
    exec .ack s = .next { s with nmiPending := false, output := s.output ++ [.ackAck] }

/-- The NMI edge law (R298): over any step, the NMI becomes pending only when its OR rises from 0 to 1, and
ceases to be pending only by `ACK NMI`. -/
def Obligations.NmiNeedsARisingEdge : Prop :=
  (∀ s t : State, s.nmiPrev = anyAsserted s.nmiLevel → step s = .next t →
    s.nmiPending = false → t.nmiPending = true →
    (∀ j, levelOf s.nmiLevel j = false) ∧ ∃ j, levelOf t.nmiLevel j = true) ∧
  (∀ (i : Instr) (s t : State), exec i s = .next t → i ≠ .ack → s.nmiPending = true → t.nmiPending = true) ∧
  (∀ (rem : BitVec 64) (s : State), s.nmiPending = true → (sweepStep rem s).nmiPending = true)

/-! ## Stops (60_exceptions.md) -/

/-- R313: which stops an instruction can raise, and which a sweep step can. -/
def Obligations.StopsByInstruction : Prop :=
  (∀ (i : Instr) (s t : State), tablesValid s.cfg.plaRead s.cfg.plaWrite = true → s.stopped = false →
    exec i s = .next t →
    (t.fault = none ∨ ∃ c ∈ faultsOf i, t.fault = some c) ∧
    (t.refusal = none ∨ ∃ c ∈ refusalsOf i, t.refusal = some c)) ∧
  (∀ (rem : BitVec 64) (s : State), s.stopped = false →
    (sweepStep rem s).refusal = none ∧
    ((sweepStep rem s).fault = none ∨ (sweepStep rem s).fault = some .cycleOverflow ∨
      (sweepStep rem s).fault = some .seqOverflow))

/-- R311: a step that stops the core records one code and emits its `STOP` last; a step that does not
emits none. The output stream only grows. -/
def Obligations.StopIsReportedLast : Prop :=
  ∀ s t : State, step s = .next t → ∃ out, t.output = s.output ++ out ∧
    (t.stopped = false → ∀ code, .stop code ∉ out) ∧
    (∀ c, t.fault = some c → t.refusal = none ∧
      ∃ before, out = before ++ [.stop c.code] ∧ ∀ code, .stop code ∉ before) ∧
    (∀ c, t.refusal = some c → t.fault = none ∧
      ∃ before, out = before ++ [.stop c.code] ∧ ∀ code, .stop code ∉ before)

/-- R124: a command that does not stop gives exactly one response, after its events; `ADVANCE` and `RETURN`
give theirs in the sweep. -/
def Obligations.OneResponsePerCommand : Prop :=
  ∀ (i : Instr) (s t : State), exec i s = .next t → s.stopped = false → t.stopped = false →
    if (∃ n, i = .advance n) ∨ i = .ret then t.output = s.output
    else ∃ events o, t.output = s.output ++ events ++ [o] ∧ o.isResponse = true ∧
      ∀ e ∈ events, e.isResponse = false

/-! ## Invariants of every step -/

/-- RAM and colour RAM keep their canonical form. -/
def Obligations.StorageStaysCanonical : Prop :=
  ∀ s t : State, StorageCanonical s → step s = .next t → StorageCanonical t

/-- The queue stays a set with one event per issued handle (R23, R24), the awaited event is gone from it
(R147), and every phase is a phase tag (R22). -/
def Obligations.QueueStaysOrdered : Prop :=
  ∀ s t : State, s.cfg.timerPhase < s.cfg.nphase → QueueOrdered s ∧ AwaitedGone s ∧ PhasesLegal s →
    step s = .next t → QueueOrdered t ∧ AwaitedGone t ∧ PhasesLegal t

/-- Handles in the queue are distinct, and a unit's tick handle and its tick events name each other, so
that a unit has at most one; while the core has not stopped, a clocked unit has one and any other none
(R243, 10_state.md R41). A stopped core is exempt from the last clause: a stop may stand between a tick
and the next one's queueing (00_scope.md R15). -/
def Obligations.TicksStayMatched : Prop :=
  ∀ s t : State, QueueOrdered s → TicksMatched s → step s = .next t → QueueOrdered t ∧ TicksMatched t

/-- Source 0 of each line stays its chip's interrupt output, and `nmiPrev` the NMI OR (R252, R293, R300). -/
def Obligations.LevelsStayMatched : Prop :=
  ∀ s t : State, LevelsMatched s → step s = .next t → LevelsMatched t

/-- The control registers, the flags, the cartridge signals and the side signal keep what the rules allow
(10_state.md R32, R42, R45; 42_timer.md R240, R242, R262). -/
def Obligations.RegistersStayLegal : Prop :=
  ∀ s t : State, RegistersLegal s ∧ CartConsistent s ∧ SideMatched s → step s = .next t →
    RegistersLegal t ∧ CartConsistent t ∧ SideMatched t
end

