-- ==== Sys2Proof/Laws/State.lean ====
section
/-! SUPPORT. What each named update of the state changes and leaves: one lemma per field per update. -/

namespace Sys2Proof.Machine

/-! ## `emit` -/

@[simp] theorem State.emit_cfg (s : State) (o : Output) : (s.emit o).cfg = s.cfg := rfl
@[simp] theorem State.emit_cycle (s : State) (o : Output) : (s.emit o).cycle = s.cycle := rfl
@[simp] theorem State.emit_nextSeq (s : State) (o : Output) : (s.emit o).nextSeq = s.nextSeq := rfl
@[simp] theorem State.emit_queue (s : State) (o : Output) : (s.emit o).queue = s.queue := rfl
@[simp] theorem State.emit_sweep (s : State) (o : Output) : (s.emit o).sweep = s.sweep := rfl
@[simp] theorem State.emit_ram (s : State) (o : Output) : (s.emit o).ram = s.ram := rfl
@[simp] theorem State.emit_color (s : State) (o : Output) : (s.emit o).color = s.color := rfl
@[simp] theorem State.emit_busByte (s : State) (o : Output) : (s.emit o).busByte = s.busByte := rfl
@[simp] theorem State.emit_portDdr (s : State) (o : Output) : (s.emit o).portDdr = s.portDdr := rfl
@[simp] theorem State.emit_portData (s : State) (o : Output) : (s.emit o).portData = s.portData := rfl
@[simp] theorem State.emit_cart (s : State) (o : Output) : (s.emit o).cart = s.cart := rfl
@[simp] theorem State.emit_cia1 (s : State) (o : Output) : (s.emit o).cia1 = s.cia1 := rfl
@[simp] theorem State.emit_cia2 (s : State) (o : Output) : (s.emit o).cia2 = s.cia2 := rfl
@[simp] theorem State.emit_side (s : State) (o : Output) : (s.emit o).side = s.side := rfl
@[simp] theorem State.emit_irqLevel (s : State) (o : Output) : (s.emit o).irqLevel = s.irqLevel := rfl
@[simp] theorem State.emit_nmiLevel (s : State) (o : Output) : (s.emit o).nmiLevel = s.nmiLevel := rfl
@[simp] theorem State.emit_nmiPrev (s : State) (o : Output) : (s.emit o).nmiPrev = s.nmiPrev := rfl
@[simp] theorem State.emit_nmiPending (s : State) (o : Output) : (s.emit o).nmiPending = s.nmiPending := rfl
@[simp] theorem State.emit_fault (s : State) (o : Output) : (s.emit o).fault = s.fault := rfl
@[simp] theorem State.emit_refusal (s : State) (o : Output) : (s.emit o).refusal = s.refusal := rfl
@[simp] theorem State.emit_commands (s : State) (o : Output) : (s.emit o).commands = s.commands := rfl
@[simp] theorem State.emit_output (s : State) (o : Output) : (s.emit o).output = s.output ++ [o] := rfl
@[simp] theorem State.emit_envCalls (s : State) (o : Output) : (s.emit o).envCalls = s.envCalls := rfl
@[simp] theorem State.emit_oracle (s : State) (o : Output) : (s.emit o).oracle = s.oracle := rfl
@[simp] theorem State.emit_drawn (s : State) (o : Output) : (s.emit o).drawn = s.drawn := rfl

/-! ## `raiseFault` -/

@[simp] theorem State.raiseFault_cfg (s : State) (c : FaultCode) : (s.raiseFault c).cfg = s.cfg := rfl
@[simp] theorem State.raiseFault_cycle (s : State) (c : FaultCode) : (s.raiseFault c).cycle = s.cycle := rfl
@[simp] theorem State.raiseFault_nextSeq (s : State) (c : FaultCode) : (s.raiseFault c).nextSeq = s.nextSeq := rfl
@[simp] theorem State.raiseFault_queue (s : State) (c : FaultCode) : (s.raiseFault c).queue = s.queue := rfl
@[simp] theorem State.raiseFault_sweep (s : State) (c : FaultCode) : (s.raiseFault c).sweep = s.sweep := rfl
@[simp] theorem State.raiseFault_ram (s : State) (c : FaultCode) : (s.raiseFault c).ram = s.ram := rfl
@[simp] theorem State.raiseFault_color (s : State) (c : FaultCode) : (s.raiseFault c).color = s.color := rfl
@[simp] theorem State.raiseFault_busByte (s : State) (c : FaultCode) : (s.raiseFault c).busByte = s.busByte := rfl
@[simp] theorem State.raiseFault_portDdr (s : State) (c : FaultCode) : (s.raiseFault c).portDdr = s.portDdr := rfl
@[simp] theorem State.raiseFault_portData (s : State) (c : FaultCode) : (s.raiseFault c).portData = s.portData := rfl
@[simp] theorem State.raiseFault_cart (s : State) (c : FaultCode) : (s.raiseFault c).cart = s.cart := rfl
@[simp] theorem State.raiseFault_cia1 (s : State) (c : FaultCode) : (s.raiseFault c).cia1 = s.cia1 := rfl
@[simp] theorem State.raiseFault_cia2 (s : State) (c : FaultCode) : (s.raiseFault c).cia2 = s.cia2 := rfl
@[simp] theorem State.raiseFault_side (s : State) (c : FaultCode) : (s.raiseFault c).side = s.side := rfl
@[simp] theorem State.raiseFault_irqLevel (s : State) (c : FaultCode) : (s.raiseFault c).irqLevel = s.irqLevel := rfl
@[simp] theorem State.raiseFault_nmiLevel (s : State) (c : FaultCode) : (s.raiseFault c).nmiLevel = s.nmiLevel := rfl
@[simp] theorem State.raiseFault_nmiPrev (s : State) (c : FaultCode) : (s.raiseFault c).nmiPrev = s.nmiPrev := rfl
@[simp] theorem State.raiseFault_nmiPending (s : State) (c : FaultCode) : (s.raiseFault c).nmiPending = s.nmiPending := rfl
@[simp] theorem State.raiseFault_fault (s : State) (c : FaultCode) : (s.raiseFault c).fault = some c := rfl
@[simp] theorem State.raiseFault_refusal (s : State) (c : FaultCode) : (s.raiseFault c).refusal = s.refusal := rfl
@[simp] theorem State.raiseFault_commands (s : State) (c : FaultCode) : (s.raiseFault c).commands = s.commands := rfl
@[simp] theorem State.raiseFault_output (s : State) (c : FaultCode) : (s.raiseFault c).output = s.output ++ [.stop c.code] := rfl
@[simp] theorem State.raiseFault_envCalls (s : State) (c : FaultCode) : (s.raiseFault c).envCalls = s.envCalls := rfl
@[simp] theorem State.raiseFault_oracle (s : State) (c : FaultCode) : (s.raiseFault c).oracle = s.oracle := rfl
@[simp] theorem State.raiseFault_drawn (s : State) (c : FaultCode) : (s.raiseFault c).drawn = s.drawn := rfl

/-! ## `raiseRefusal` -/

@[simp] theorem State.raiseRefusal_cfg (s : State) (c : RefusalCode) : (s.raiseRefusal c).cfg = s.cfg := rfl
@[simp] theorem State.raiseRefusal_cycle (s : State) (c : RefusalCode) : (s.raiseRefusal c).cycle = s.cycle := rfl
@[simp] theorem State.raiseRefusal_nextSeq (s : State) (c : RefusalCode) : (s.raiseRefusal c).nextSeq = s.nextSeq := rfl
@[simp] theorem State.raiseRefusal_queue (s : State) (c : RefusalCode) : (s.raiseRefusal c).queue = s.queue := rfl
@[simp] theorem State.raiseRefusal_sweep (s : State) (c : RefusalCode) : (s.raiseRefusal c).sweep = s.sweep := rfl
@[simp] theorem State.raiseRefusal_ram (s : State) (c : RefusalCode) : (s.raiseRefusal c).ram = s.ram := rfl
@[simp] theorem State.raiseRefusal_color (s : State) (c : RefusalCode) : (s.raiseRefusal c).color = s.color := rfl
@[simp] theorem State.raiseRefusal_busByte (s : State) (c : RefusalCode) : (s.raiseRefusal c).busByte = s.busByte := rfl
@[simp] theorem State.raiseRefusal_portDdr (s : State) (c : RefusalCode) : (s.raiseRefusal c).portDdr = s.portDdr := rfl
@[simp] theorem State.raiseRefusal_portData (s : State) (c : RefusalCode) : (s.raiseRefusal c).portData = s.portData := rfl
@[simp] theorem State.raiseRefusal_cart (s : State) (c : RefusalCode) : (s.raiseRefusal c).cart = s.cart := rfl
@[simp] theorem State.raiseRefusal_cia1 (s : State) (c : RefusalCode) : (s.raiseRefusal c).cia1 = s.cia1 := rfl
@[simp] theorem State.raiseRefusal_cia2 (s : State) (c : RefusalCode) : (s.raiseRefusal c).cia2 = s.cia2 := rfl
@[simp] theorem State.raiseRefusal_side (s : State) (c : RefusalCode) : (s.raiseRefusal c).side = s.side := rfl
@[simp] theorem State.raiseRefusal_irqLevel (s : State) (c : RefusalCode) : (s.raiseRefusal c).irqLevel = s.irqLevel := rfl
@[simp] theorem State.raiseRefusal_nmiLevel (s : State) (c : RefusalCode) : (s.raiseRefusal c).nmiLevel = s.nmiLevel := rfl
@[simp] theorem State.raiseRefusal_nmiPrev (s : State) (c : RefusalCode) : (s.raiseRefusal c).nmiPrev = s.nmiPrev := rfl
@[simp] theorem State.raiseRefusal_nmiPending (s : State) (c : RefusalCode) : (s.raiseRefusal c).nmiPending = s.nmiPending := rfl
@[simp] theorem State.raiseRefusal_fault (s : State) (c : RefusalCode) : (s.raiseRefusal c).fault = s.fault := rfl
@[simp] theorem State.raiseRefusal_refusal (s : State) (c : RefusalCode) : (s.raiseRefusal c).refusal = some c := rfl
@[simp] theorem State.raiseRefusal_commands (s : State) (c : RefusalCode) : (s.raiseRefusal c).commands = s.commands := rfl
@[simp] theorem State.raiseRefusal_output (s : State) (c : RefusalCode) : (s.raiseRefusal c).output = s.output ++ [.stop c.code] := rfl
@[simp] theorem State.raiseRefusal_envCalls (s : State) (c : RefusalCode) : (s.raiseRefusal c).envCalls = s.envCalls := rfl
@[simp] theorem State.raiseRefusal_oracle (s : State) (c : RefusalCode) : (s.raiseRefusal c).oracle = s.oracle := rfl
@[simp] theorem State.raiseRefusal_drawn (s : State) (c : RefusalCode) : (s.raiseRefusal c).drawn = s.drawn := rfl

/-! ## `resumeSweep` -/

@[simp] theorem State.resumeSweep_cfg (s : State) (rem : BitVec 64) : (s.resumeSweep rem).cfg = s.cfg := rfl
@[simp] theorem State.resumeSweep_cycle (s : State) (rem : BitVec 64) : (s.resumeSweep rem).cycle = s.cycle := rfl
@[simp] theorem State.resumeSweep_nextSeq (s : State) (rem : BitVec 64) : (s.resumeSweep rem).nextSeq = s.nextSeq := rfl
@[simp] theorem State.resumeSweep_queue (s : State) (rem : BitVec 64) : (s.resumeSweep rem).queue = s.queue := rfl
@[simp] theorem State.resumeSweep_sweep (s : State) (rem : BitVec 64) : (s.resumeSweep rem).sweep = .sweep rem := rfl
@[simp] theorem State.resumeSweep_ram (s : State) (rem : BitVec 64) : (s.resumeSweep rem).ram = s.ram := rfl
@[simp] theorem State.resumeSweep_color (s : State) (rem : BitVec 64) : (s.resumeSweep rem).color = s.color := rfl
@[simp] theorem State.resumeSweep_busByte (s : State) (rem : BitVec 64) : (s.resumeSweep rem).busByte = s.busByte := rfl
@[simp] theorem State.resumeSweep_portDdr (s : State) (rem : BitVec 64) : (s.resumeSweep rem).portDdr = s.portDdr := rfl
@[simp] theorem State.resumeSweep_portData (s : State) (rem : BitVec 64) : (s.resumeSweep rem).portData = s.portData := rfl
@[simp] theorem State.resumeSweep_cart (s : State) (rem : BitVec 64) : (s.resumeSweep rem).cart = s.cart := rfl
@[simp] theorem State.resumeSweep_cia1 (s : State) (rem : BitVec 64) : (s.resumeSweep rem).cia1 = s.cia1 := rfl
@[simp] theorem State.resumeSweep_cia2 (s : State) (rem : BitVec 64) : (s.resumeSweep rem).cia2 = s.cia2 := rfl
@[simp] theorem State.resumeSweep_side (s : State) (rem : BitVec 64) : (s.resumeSweep rem).side = s.side := rfl
@[simp] theorem State.resumeSweep_irqLevel (s : State) (rem : BitVec 64) : (s.resumeSweep rem).irqLevel = s.irqLevel := rfl
@[simp] theorem State.resumeSweep_nmiLevel (s : State) (rem : BitVec 64) : (s.resumeSweep rem).nmiLevel = s.nmiLevel := rfl
@[simp] theorem State.resumeSweep_nmiPrev (s : State) (rem : BitVec 64) : (s.resumeSweep rem).nmiPrev = s.nmiPrev := rfl
@[simp] theorem State.resumeSweep_nmiPending (s : State) (rem : BitVec 64) : (s.resumeSweep rem).nmiPending = s.nmiPending := rfl
@[simp] theorem State.resumeSweep_fault (s : State) (rem : BitVec 64) : (s.resumeSweep rem).fault = s.fault := rfl
@[simp] theorem State.resumeSweep_refusal (s : State) (rem : BitVec 64) : (s.resumeSweep rem).refusal = s.refusal := rfl
@[simp] theorem State.resumeSweep_commands (s : State) (rem : BitVec 64) : (s.resumeSweep rem).commands = s.commands := rfl
@[simp] theorem State.resumeSweep_output (s : State) (rem : BitVec 64) : (s.resumeSweep rem).output = s.output := rfl
@[simp] theorem State.resumeSweep_envCalls (s : State) (rem : BitVec 64) : (s.resumeSweep rem).envCalls = s.envCalls := rfl
@[simp] theorem State.resumeSweep_oracle (s : State) (rem : BitVec 64) : (s.resumeSweep rem).oracle = s.oracle := rfl
@[simp] theorem State.resumeSweep_drawn (s : State) (rem : BitVec 64) : (s.resumeSweep rem).drawn = s.drawn := rfl

/-! ## `afterDraw` -/

@[simp] theorem State.afterDraw_cfg (s : State) : s.afterDraw.cfg = s.cfg := rfl
@[simp] theorem State.afterDraw_cycle (s : State) : s.afterDraw.cycle = s.cycle := rfl
@[simp] theorem State.afterDraw_nextSeq (s : State) : s.afterDraw.nextSeq = s.nextSeq := rfl
@[simp] theorem State.afterDraw_queue (s : State) : s.afterDraw.queue = s.queue := rfl
@[simp] theorem State.afterDraw_sweep (s : State) : s.afterDraw.sweep = s.sweep := rfl
@[simp] theorem State.afterDraw_ram (s : State) : s.afterDraw.ram = s.ram := rfl
@[simp] theorem State.afterDraw_color (s : State) : s.afterDraw.color = s.color := rfl
@[simp] theorem State.afterDraw_busByte (s : State) : s.afterDraw.busByte = s.busByte := rfl
@[simp] theorem State.afterDraw_portDdr (s : State) : s.afterDraw.portDdr = s.portDdr := rfl
@[simp] theorem State.afterDraw_portData (s : State) : s.afterDraw.portData = s.portData := rfl
@[simp] theorem State.afterDraw_cart (s : State) : s.afterDraw.cart = s.cart := rfl
@[simp] theorem State.afterDraw_cia1 (s : State) : s.afterDraw.cia1 = s.cia1 := rfl
@[simp] theorem State.afterDraw_cia2 (s : State) : s.afterDraw.cia2 = s.cia2 := rfl
@[simp] theorem State.afterDraw_side (s : State) : s.afterDraw.side = s.side := rfl
@[simp] theorem State.afterDraw_irqLevel (s : State) : s.afterDraw.irqLevel = s.irqLevel := rfl
@[simp] theorem State.afterDraw_nmiLevel (s : State) : s.afterDraw.nmiLevel = s.nmiLevel := rfl
@[simp] theorem State.afterDraw_nmiPrev (s : State) : s.afterDraw.nmiPrev = s.nmiPrev := rfl
@[simp] theorem State.afterDraw_nmiPending (s : State) : s.afterDraw.nmiPending = s.nmiPending := rfl
@[simp] theorem State.afterDraw_fault (s : State) : s.afterDraw.fault = s.fault := rfl
@[simp] theorem State.afterDraw_refusal (s : State) : s.afterDraw.refusal = s.refusal := rfl
@[simp] theorem State.afterDraw_commands (s : State) : s.afterDraw.commands = s.commands := rfl
@[simp] theorem State.afterDraw_output (s : State) : s.afterDraw.output = s.output := rfl
@[simp] theorem State.afterDraw_envCalls (s : State) : s.afterDraw.envCalls = s.envCalls := rfl
@[simp] theorem State.afterDraw_oracle (s : State) : s.afterDraw.oracle = s.oracle.tail := rfl
@[simp] theorem State.afterDraw_drawn (s : State) : s.afterDraw.drawn = s.drawn + 1 := rfl

/-! ## `dequeue` -/

@[simp] theorem State.dequeue_cfg (s : State) (h : Handle) : (s.dequeue h).cfg = s.cfg := rfl
@[simp] theorem State.dequeue_cycle (s : State) (h : Handle) : (s.dequeue h).cycle = s.cycle := rfl
@[simp] theorem State.dequeue_nextSeq (s : State) (h : Handle) : (s.dequeue h).nextSeq = s.nextSeq := rfl
@[simp] theorem State.dequeue_queue (s : State) (h : Handle) : (s.dequeue h).queue = s.queue.filter fun e => decide (e.seq ≠ h) := rfl
@[simp] theorem State.dequeue_sweep (s : State) (h : Handle) : (s.dequeue h).sweep = s.sweep := rfl
@[simp] theorem State.dequeue_ram (s : State) (h : Handle) : (s.dequeue h).ram = s.ram := rfl
@[simp] theorem State.dequeue_color (s : State) (h : Handle) : (s.dequeue h).color = s.color := rfl
@[simp] theorem State.dequeue_busByte (s : State) (h : Handle) : (s.dequeue h).busByte = s.busByte := rfl
@[simp] theorem State.dequeue_portDdr (s : State) (h : Handle) : (s.dequeue h).portDdr = s.portDdr := rfl
@[simp] theorem State.dequeue_portData (s : State) (h : Handle) : (s.dequeue h).portData = s.portData := rfl
@[simp] theorem State.dequeue_cart (s : State) (h : Handle) : (s.dequeue h).cart = s.cart := rfl
@[simp] theorem State.dequeue_cia1 (s : State) (h : Handle) : (s.dequeue h).cia1 = s.cia1 := rfl
@[simp] theorem State.dequeue_cia2 (s : State) (h : Handle) : (s.dequeue h).cia2 = s.cia2 := rfl
@[simp] theorem State.dequeue_side (s : State) (h : Handle) : (s.dequeue h).side = s.side := rfl
@[simp] theorem State.dequeue_irqLevel (s : State) (h : Handle) : (s.dequeue h).irqLevel = s.irqLevel := rfl
@[simp] theorem State.dequeue_nmiLevel (s : State) (h : Handle) : (s.dequeue h).nmiLevel = s.nmiLevel := rfl
@[simp] theorem State.dequeue_nmiPrev (s : State) (h : Handle) : (s.dequeue h).nmiPrev = s.nmiPrev := rfl
@[simp] theorem State.dequeue_nmiPending (s : State) (h : Handle) : (s.dequeue h).nmiPending = s.nmiPending := rfl
@[simp] theorem State.dequeue_fault (s : State) (h : Handle) : (s.dequeue h).fault = s.fault := rfl
@[simp] theorem State.dequeue_refusal (s : State) (h : Handle) : (s.dequeue h).refusal = s.refusal := rfl
@[simp] theorem State.dequeue_commands (s : State) (h : Handle) : (s.dequeue h).commands = s.commands := rfl
@[simp] theorem State.dequeue_output (s : State) (h : Handle) : (s.dequeue h).output = s.output := rfl
@[simp] theorem State.dequeue_envCalls (s : State) (h : Handle) : (s.dequeue h).envCalls = s.envCalls := rfl
@[simp] theorem State.dequeue_oracle (s : State) (h : Handle) : (s.dequeue h).oracle = s.oracle := rfl
@[simp] theorem State.dequeue_drawn (s : State) (h : Handle) : (s.dequeue h).drawn = s.drawn := rfl

/-! ## `setCia` -/

@[simp] theorem State.setCia_cfg (s : State) (c : Chip) (x : Cia) : (s.setCia c x).cfg = s.cfg := by cases c <;> rfl
@[simp] theorem State.setCia_cycle (s : State) (c : Chip) (x : Cia) : (s.setCia c x).cycle = s.cycle := by cases c <;> rfl
@[simp] theorem State.setCia_nextSeq (s : State) (c : Chip) (x : Cia) : (s.setCia c x).nextSeq = s.nextSeq := by cases c <;> rfl
@[simp] theorem State.setCia_queue (s : State) (c : Chip) (x : Cia) : (s.setCia c x).queue = s.queue := by cases c <;> rfl
@[simp] theorem State.setCia_sweep (s : State) (c : Chip) (x : Cia) : (s.setCia c x).sweep = s.sweep := by cases c <;> rfl
@[simp] theorem State.setCia_ram (s : State) (c : Chip) (x : Cia) : (s.setCia c x).ram = s.ram := by cases c <;> rfl
@[simp] theorem State.setCia_color (s : State) (c : Chip) (x : Cia) : (s.setCia c x).color = s.color := by cases c <;> rfl
@[simp] theorem State.setCia_busByte (s : State) (c : Chip) (x : Cia) : (s.setCia c x).busByte = s.busByte := by cases c <;> rfl
@[simp] theorem State.setCia_portDdr (s : State) (c : Chip) (x : Cia) : (s.setCia c x).portDdr = s.portDdr := by cases c <;> rfl
@[simp] theorem State.setCia_portData (s : State) (c : Chip) (x : Cia) : (s.setCia c x).portData = s.portData := by cases c <;> rfl
@[simp] theorem State.setCia_cart (s : State) (c : Chip) (x : Cia) : (s.setCia c x).cart = s.cart := by cases c <;> rfl
@[simp] theorem State.setCia_side (s : State) (c : Chip) (x : Cia) : (s.setCia c x).side = s.side := by cases c <;> rfl
@[simp] theorem State.setCia_irqLevel (s : State) (c : Chip) (x : Cia) : (s.setCia c x).irqLevel = s.irqLevel := by cases c <;> rfl
@[simp] theorem State.setCia_nmiLevel (s : State) (c : Chip) (x : Cia) : (s.setCia c x).nmiLevel = s.nmiLevel := by cases c <;> rfl
@[simp] theorem State.setCia_nmiPrev (s : State) (c : Chip) (x : Cia) : (s.setCia c x).nmiPrev = s.nmiPrev := by cases c <;> rfl
@[simp] theorem State.setCia_nmiPending (s : State) (c : Chip) (x : Cia) : (s.setCia c x).nmiPending = s.nmiPending := by cases c <;> rfl
@[simp] theorem State.setCia_fault (s : State) (c : Chip) (x : Cia) : (s.setCia c x).fault = s.fault := by cases c <;> rfl
@[simp] theorem State.setCia_refusal (s : State) (c : Chip) (x : Cia) : (s.setCia c x).refusal = s.refusal := by cases c <;> rfl
@[simp] theorem State.setCia_commands (s : State) (c : Chip) (x : Cia) : (s.setCia c x).commands = s.commands := by cases c <;> rfl
@[simp] theorem State.setCia_output (s : State) (c : Chip) (x : Cia) : (s.setCia c x).output = s.output := by cases c <;> rfl
@[simp] theorem State.setCia_envCalls (s : State) (c : Chip) (x : Cia) : (s.setCia c x).envCalls = s.envCalls := by cases c <;> rfl
@[simp] theorem State.setCia_oracle (s : State) (c : Chip) (x : Cia) : (s.setCia c x).oracle = s.oracle := by cases c <;> rfl
@[simp] theorem State.setCia_drawn (s : State) (c : Chip) (x : Cia) : (s.setCia c x).drawn = s.drawn := by cases c <;> rfl

/-! ## `nmiUpdate` -/

@[simp] theorem State.nmiUpdate_cfg (s : State) : s.nmiUpdate.cfg = s.cfg := rfl
@[simp] theorem State.nmiUpdate_cycle (s : State) : s.nmiUpdate.cycle = s.cycle := rfl
@[simp] theorem State.nmiUpdate_nextSeq (s : State) : s.nmiUpdate.nextSeq = s.nextSeq := rfl
@[simp] theorem State.nmiUpdate_queue (s : State) : s.nmiUpdate.queue = s.queue := rfl
@[simp] theorem State.nmiUpdate_sweep (s : State) : s.nmiUpdate.sweep = s.sweep := rfl
@[simp] theorem State.nmiUpdate_ram (s : State) : s.nmiUpdate.ram = s.ram := rfl
@[simp] theorem State.nmiUpdate_color (s : State) : s.nmiUpdate.color = s.color := rfl
@[simp] theorem State.nmiUpdate_busByte (s : State) : s.nmiUpdate.busByte = s.busByte := rfl
@[simp] theorem State.nmiUpdate_portDdr (s : State) : s.nmiUpdate.portDdr = s.portDdr := rfl
@[simp] theorem State.nmiUpdate_portData (s : State) : s.nmiUpdate.portData = s.portData := rfl
@[simp] theorem State.nmiUpdate_cart (s : State) : s.nmiUpdate.cart = s.cart := rfl
@[simp] theorem State.nmiUpdate_cia1 (s : State) : s.nmiUpdate.cia1 = s.cia1 := rfl
@[simp] theorem State.nmiUpdate_cia2 (s : State) : s.nmiUpdate.cia2 = s.cia2 := rfl
@[simp] theorem State.nmiUpdate_side (s : State) : s.nmiUpdate.side = s.side := rfl
@[simp] theorem State.nmiUpdate_irqLevel (s : State) : s.nmiUpdate.irqLevel = s.irqLevel := rfl
@[simp] theorem State.nmiUpdate_nmiLevel (s : State) : s.nmiUpdate.nmiLevel = s.nmiLevel := rfl
@[simp] theorem State.nmiUpdate_nmiPrev (s : State) : s.nmiUpdate.nmiPrev = anyAsserted s.nmiLevel := rfl
@[simp] theorem State.nmiUpdate_nmiPending (s : State) : s.nmiUpdate.nmiPending = nmiPendingAfter (anyAsserted s.nmiLevel) s.nmiPrev s.nmiPending := rfl
@[simp] theorem State.nmiUpdate_fault (s : State) : s.nmiUpdate.fault = s.fault := rfl
@[simp] theorem State.nmiUpdate_refusal (s : State) : s.nmiUpdate.refusal = s.refusal := rfl
@[simp] theorem State.nmiUpdate_commands (s : State) : s.nmiUpdate.commands = s.commands := rfl
@[simp] theorem State.nmiUpdate_output (s : State) : s.nmiUpdate.output = s.output := rfl
@[simp] theorem State.nmiUpdate_envCalls (s : State) : s.nmiUpdate.envCalls = s.envCalls := rfl
@[simp] theorem State.nmiUpdate_oracle (s : State) : s.nmiUpdate.oracle = s.oracle := rfl
@[simp] theorem State.nmiUpdate_drawn (s : State) : s.nmiUpdate.drawn = s.drawn := rfl

/-! ## `assertLine` -/

@[simp] theorem State.assertLine_cfg (s : State) (l : Line) (i : BitVec 4) (b : Bool) : (s.assertLine l i b).cfg = s.cfg := by cases l <;> rfl
@[simp] theorem State.assertLine_cycle (s : State) (l : Line) (i : BitVec 4) (b : Bool) : (s.assertLine l i b).cycle = s.cycle := by cases l <;> rfl
@[simp] theorem State.assertLine_nextSeq (s : State) (l : Line) (i : BitVec 4) (b : Bool) : (s.assertLine l i b).nextSeq = s.nextSeq := by cases l <;> rfl
@[simp] theorem State.assertLine_queue (s : State) (l : Line) (i : BitVec 4) (b : Bool) : (s.assertLine l i b).queue = s.queue := by cases l <;> rfl
@[simp] theorem State.assertLine_sweep (s : State) (l : Line) (i : BitVec 4) (b : Bool) : (s.assertLine l i b).sweep = s.sweep := by cases l <;> rfl
@[simp] theorem State.assertLine_ram (s : State) (l : Line) (i : BitVec 4) (b : Bool) : (s.assertLine l i b).ram = s.ram := by cases l <;> rfl
@[simp] theorem State.assertLine_color (s : State) (l : Line) (i : BitVec 4) (b : Bool) : (s.assertLine l i b).color = s.color := by cases l <;> rfl
@[simp] theorem State.assertLine_busByte (s : State) (l : Line) (i : BitVec 4) (b : Bool) : (s.assertLine l i b).busByte = s.busByte := by cases l <;> rfl
@[simp] theorem State.assertLine_portDdr (s : State) (l : Line) (i : BitVec 4) (b : Bool) : (s.assertLine l i b).portDdr = s.portDdr := by cases l <;> rfl
@[simp] theorem State.assertLine_portData (s : State) (l : Line) (i : BitVec 4) (b : Bool) : (s.assertLine l i b).portData = s.portData := by cases l <;> rfl
@[simp] theorem State.assertLine_cart (s : State) (l : Line) (i : BitVec 4) (b : Bool) : (s.assertLine l i b).cart = s.cart := by cases l <;> rfl
@[simp] theorem State.assertLine_cia1 (s : State) (l : Line) (i : BitVec 4) (b : Bool) : (s.assertLine l i b).cia1 = s.cia1 := by cases l <;> rfl
@[simp] theorem State.assertLine_cia2 (s : State) (l : Line) (i : BitVec 4) (b : Bool) : (s.assertLine l i b).cia2 = s.cia2 := by cases l <;> rfl
@[simp] theorem State.assertLine_side (s : State) (l : Line) (i : BitVec 4) (b : Bool) : (s.assertLine l i b).side = s.side := by cases l <;> rfl
@[simp] theorem State.assertLine_fault (s : State) (l : Line) (i : BitVec 4) (b : Bool) : (s.assertLine l i b).fault = s.fault := by cases l <;> rfl
@[simp] theorem State.assertLine_refusal (s : State) (l : Line) (i : BitVec 4) (b : Bool) : (s.assertLine l i b).refusal = s.refusal := by cases l <;> rfl
@[simp] theorem State.assertLine_commands (s : State) (l : Line) (i : BitVec 4) (b : Bool) : (s.assertLine l i b).commands = s.commands := by cases l <;> rfl
@[simp] theorem State.assertLine_output (s : State) (l : Line) (i : BitVec 4) (b : Bool) : (s.assertLine l i b).output = s.output := by cases l <;> rfl
@[simp] theorem State.assertLine_envCalls (s : State) (l : Line) (i : BitVec 4) (b : Bool) : (s.assertLine l i b).envCalls = s.envCalls := by cases l <;> rfl
@[simp] theorem State.assertLine_oracle (s : State) (l : Line) (i : BitVec 4) (b : Bool) : (s.assertLine l i b).oracle = s.oracle := by cases l <;> rfl
@[simp] theorem State.assertLine_drawn (s : State) (l : Line) (i : BitVec 4) (b : Bool) : (s.assertLine l i b).drawn = s.drawn := by cases l <;> rfl

/-! ## `raiseInterrupt` -/

@[simp] theorem State.raiseInterrupt_cfg (s : State) (c : Chip) (b : Bool) : (s.raiseInterrupt c b).cfg = s.cfg := by cases c <;> rfl
@[simp] theorem State.raiseInterrupt_cycle (s : State) (c : Chip) (b : Bool) : (s.raiseInterrupt c b).cycle = s.cycle := by cases c <;> rfl
@[simp] theorem State.raiseInterrupt_nextSeq (s : State) (c : Chip) (b : Bool) : (s.raiseInterrupt c b).nextSeq = s.nextSeq := by cases c <;> rfl
@[simp] theorem State.raiseInterrupt_queue (s : State) (c : Chip) (b : Bool) : (s.raiseInterrupt c b).queue = s.queue := by cases c <;> rfl
@[simp] theorem State.raiseInterrupt_sweep (s : State) (c : Chip) (b : Bool) : (s.raiseInterrupt c b).sweep = s.sweep := by cases c <;> rfl
@[simp] theorem State.raiseInterrupt_ram (s : State) (c : Chip) (b : Bool) : (s.raiseInterrupt c b).ram = s.ram := by cases c <;> rfl
@[simp] theorem State.raiseInterrupt_color (s : State) (c : Chip) (b : Bool) : (s.raiseInterrupt c b).color = s.color := by cases c <;> rfl
@[simp] theorem State.raiseInterrupt_busByte (s : State) (c : Chip) (b : Bool) : (s.raiseInterrupt c b).busByte = s.busByte := by cases c <;> rfl
@[simp] theorem State.raiseInterrupt_portDdr (s : State) (c : Chip) (b : Bool) : (s.raiseInterrupt c b).portDdr = s.portDdr := by cases c <;> rfl
@[simp] theorem State.raiseInterrupt_portData (s : State) (c : Chip) (b : Bool) : (s.raiseInterrupt c b).portData = s.portData := by cases c <;> rfl
@[simp] theorem State.raiseInterrupt_cart (s : State) (c : Chip) (b : Bool) : (s.raiseInterrupt c b).cart = s.cart := by cases c <;> rfl
@[simp] theorem State.raiseInterrupt_cia1 (s : State) (c : Chip) (b : Bool) : (s.raiseInterrupt c b).cia1 = s.cia1 := by cases c <;> rfl
@[simp] theorem State.raiseInterrupt_cia2 (s : State) (c : Chip) (b : Bool) : (s.raiseInterrupt c b).cia2 = s.cia2 := by cases c <;> rfl
@[simp] theorem State.raiseInterrupt_side (s : State) (c : Chip) (b : Bool) : (s.raiseInterrupt c b).side = s.side := by cases c <;> rfl
@[simp] theorem State.raiseInterrupt_fault (s : State) (c : Chip) (b : Bool) : (s.raiseInterrupt c b).fault = s.fault := by cases c <;> rfl
@[simp] theorem State.raiseInterrupt_refusal (s : State) (c : Chip) (b : Bool) : (s.raiseInterrupt c b).refusal = s.refusal := by cases c <;> rfl
@[simp] theorem State.raiseInterrupt_commands (s : State) (c : Chip) (b : Bool) : (s.raiseInterrupt c b).commands = s.commands := by cases c <;> rfl
@[simp] theorem State.raiseInterrupt_output (s : State) (c : Chip) (b : Bool) : (s.raiseInterrupt c b).output = s.output := by cases c <;> rfl
@[simp] theorem State.raiseInterrupt_envCalls (s : State) (c : Chip) (b : Bool) : (s.raiseInterrupt c b).envCalls = s.envCalls ++ [(c, b)] := by cases c <;> rfl
@[simp] theorem State.raiseInterrupt_oracle (s : State) (c : Chip) (b : Bool) : (s.raiseInterrupt c b).oracle = s.oracle := by cases c <;> rfl
@[simp] theorem State.raiseInterrupt_drawn (s : State) (c : Chip) (b : Bool) : (s.raiseInterrupt c b).drawn = s.drawn := by cases c <;> rfl

/-! ## Chips and units -/

@[simp] theorem State.cia_setCia (s : State) (c : Chip) (x : Cia) : (s.setCia c x).cia c = x := by cases c <;> rfl
@[simp] theorem State.cia_setCia_cia1 (s : State) (x : Cia) : (s.setCia .cia1 x).cia .cia2 = s.cia .cia2 := rfl
@[simp] theorem State.cia_setCia_cia2 (s : State) (x : Cia) : (s.setCia .cia2 x).cia .cia1 = s.cia .cia1 := rfl
theorem State.cia_setCia_ne (s : State) (c k : Chip) (x : Cia) (h : k ≠ c) : (s.setCia c x).cia k = s.cia k := by
  cases c <;> cases k <;> first | rfl | exact absurd rfl h
theorem State.cia_setCia_if (s : State) (c k : Chip) (x : Cia) :
    (s.setCia c x).cia k = if k = c then x else s.cia k := by
  cases c <;> cases k <;> rfl
@[simp] theorem State.setCia_setCia (s : State) (c : Chip) (x y : Cia) : (s.setCia c x).setCia c y = s.setCia c y := by
  cases c <;> rfl
@[simp] theorem State.setCia_cia (s : State) (c : Chip) : s.setCia c (s.cia c) = s := by cases c <;> rfl
@[simp] theorem State.emit_cia (s : State) (o : Output) (c : Chip) : (s.emit o).cia c = s.cia c := by cases c <;> rfl
@[simp] theorem State.dequeue_cia (s : State) (h : Handle) (c : Chip) : (s.dequeue h).cia c = s.cia c := by cases c <;> rfl
@[simp] theorem State.raiseFault_cia (s : State) (f : FaultCode) (c : Chip) : (s.raiseFault f).cia c = s.cia c := by
  cases c <;> rfl
@[simp] theorem State.raiseRefusal_cia (s : State) (f : RefusalCode) (c : Chip) : (s.raiseRefusal f).cia c = s.cia c := by
  cases c <;> rfl
@[simp] theorem State.afterDraw_cia (s : State) (c : Chip) : s.afterDraw.cia c = s.cia c := by cases c <;> rfl
@[simp] theorem State.assertLine_cia (s : State) (l : Line) (i : BitVec 4) (b : Bool) (c : Chip) :
    (s.assertLine l i b).cia c = s.cia c := by cases c <;> cases l <;> rfl
@[simp] theorem State.raiseInterrupt_cia (s : State) (k : Chip) (b : Bool) (c : Chip) :
    (s.raiseInterrupt k b).cia c = s.cia c := by cases c <;> cases k <;> rfl

@[simp] theorem Cia.timer_setTimer (x : Cia) (u : TimerId) (t : TimerState) : (x.setTimer u t).timer u = t := by
  cases u <;> rfl
theorem Cia.timer_setTimer_if (x : Cia) (u v : TimerId) (t : TimerState) :
    (x.setTimer u t).timer v = if v = u then t else x.timer v := by cases u <;> cases v <;> rfl
@[simp] theorem Cia.setTimer_setTimer (x : Cia) (u : TimerId) (t t' : TimerState) :
    (x.setTimer u t).setTimer u t' = x.setTimer u t' := by cases u <;> rfl
@[simp] theorem Cia.setTimer_timer (x : Cia) (u : TimerId) : x.setTimer u (x.timer u) = x := by cases u <;> rfl
@[simp] theorem Cia.control_setTimer (x : Cia) (u v : TimerId) (t : TimerState) : (x.setTimer u t).control v = x.control v := by
  cases u <;> cases v <;> rfl
@[simp] theorem Cia.timer_setControl (x : Cia) (u v : TimerId) (b : Byte) : (x.setControl u b).timer v = x.timer v := by
  cases u <;> cases v <;> rfl
@[simp] theorem Cia.control_setControl (x : Cia) (u : TimerId) (b : Byte) : (x.setControl u b).control u = b := by
  cases u <;> rfl
@[simp] theorem Cia.setTimer_pra (x : Cia) (u : TimerId) (t : TimerState) : (x.setTimer u t).pra = x.pra := by cases u <;> rfl
@[simp] theorem Cia.setTimer_prb (x : Cia) (u : TimerId) (t : TimerState) : (x.setTimer u t).prb = x.prb := by cases u <;> rfl
@[simp] theorem Cia.setTimer_ddra (x : Cia) (u : TimerId) (t : TimerState) : (x.setTimer u t).ddra = x.ddra := by cases u <;> rfl
@[simp] theorem Cia.setTimer_ddrb (x : Cia) (u : TimerId) (t : TimerState) : (x.setTimer u t).ddrb = x.ddrb := by cases u <;> rfl
@[simp] theorem Cia.setTimer_cra (x : Cia) (u : TimerId) (t : TimerState) : (x.setTimer u t).cra = x.cra := by cases u <;> rfl
@[simp] theorem Cia.setTimer_crb (x : Cia) (u : TimerId) (t : TimerState) : (x.setTimer u t).crb = x.crb := by cases u <;> rfl
@[simp] theorem Cia.setTimer_mask (x : Cia) (u : TimerId) (t : TimerState) : (x.setTimer u t).mask = x.mask := by cases u <;> rfl
@[simp] theorem Cia.setTimer_flags (x : Cia) (u : TimerId) (t : TimerState) : (x.setTimer u t).flags = x.flags := by cases u <;> rfl
@[simp] theorem Cia.setTimer_ir (x : Cia) (u : TimerId) (t : TimerState) : (x.setTimer u t).ir = x.ir := by cases u <;> rfl
@[simp] theorem Cia.setControl_pra (x : Cia) (u : TimerId) (t : Byte) : (x.setControl u t).pra = x.pra := by cases u <;> rfl
@[simp] theorem Cia.setControl_prb (x : Cia) (u : TimerId) (t : Byte) : (x.setControl u t).prb = x.prb := by cases u <;> rfl
@[simp] theorem Cia.setControl_ddra (x : Cia) (u : TimerId) (t : Byte) : (x.setControl u t).ddra = x.ddra := by cases u <;> rfl
@[simp] theorem Cia.setControl_ddrb (x : Cia) (u : TimerId) (t : Byte) : (x.setControl u t).ddrb = x.ddrb := by cases u <;> rfl
@[simp] theorem Cia.setControl_ta (x : Cia) (u : TimerId) (t : Byte) : (x.setControl u t).ta = x.ta := by cases u <;> rfl
@[simp] theorem Cia.setControl_tb (x : Cia) (u : TimerId) (t : Byte) : (x.setControl u t).tb = x.tb := by cases u <;> rfl
@[simp] theorem Cia.setControl_mask (x : Cia) (u : TimerId) (t : Byte) : (x.setControl u t).mask = x.mask := by cases u <;> rfl
@[simp] theorem Cia.setControl_flags (x : Cia) (u : TimerId) (t : Byte) : (x.setControl u t).flags = x.flags := by cases u <;> rfl
@[simp] theorem Cia.setControl_ir (x : Cia) (u : TimerId) (t : Byte) : (x.setControl u t).ir = x.ir := by cases u <;> rfl
@[simp] theorem Cia.setPortData_ddra (x : Cia) (u : TimerId) (t : Byte) : (x.setPortData u t).ddra = x.ddra := by cases u <;> rfl
@[simp] theorem Cia.setPortData_ddrb (x : Cia) (u : TimerId) (t : Byte) : (x.setPortData u t).ddrb = x.ddrb := by cases u <;> rfl
@[simp] theorem Cia.setPortData_ta (x : Cia) (u : TimerId) (t : Byte) : (x.setPortData u t).ta = x.ta := by cases u <;> rfl
@[simp] theorem Cia.setPortData_tb (x : Cia) (u : TimerId) (t : Byte) : (x.setPortData u t).tb = x.tb := by cases u <;> rfl
@[simp] theorem Cia.setPortData_cra (x : Cia) (u : TimerId) (t : Byte) : (x.setPortData u t).cra = x.cra := by cases u <;> rfl
@[simp] theorem Cia.setPortData_crb (x : Cia) (u : TimerId) (t : Byte) : (x.setPortData u t).crb = x.crb := by cases u <;> rfl
@[simp] theorem Cia.setPortData_mask (x : Cia) (u : TimerId) (t : Byte) : (x.setPortData u t).mask = x.mask := by cases u <;> rfl
@[simp] theorem Cia.setPortData_flags (x : Cia) (u : TimerId) (t : Byte) : (x.setPortData u t).flags = x.flags := by cases u <;> rfl
@[simp] theorem Cia.setPortData_ir (x : Cia) (u : TimerId) (t : Byte) : (x.setPortData u t).ir = x.ir := by cases u <;> rfl
@[simp] theorem Cia.setPortDir_pra (x : Cia) (u : TimerId) (t : Byte) : (x.setPortDir u t).pra = x.pra := by cases u <;> rfl
@[simp] theorem Cia.setPortDir_prb (x : Cia) (u : TimerId) (t : Byte) : (x.setPortDir u t).prb = x.prb := by cases u <;> rfl
@[simp] theorem Cia.setPortDir_ta (x : Cia) (u : TimerId) (t : Byte) : (x.setPortDir u t).ta = x.ta := by cases u <;> rfl
@[simp] theorem Cia.setPortDir_tb (x : Cia) (u : TimerId) (t : Byte) : (x.setPortDir u t).tb = x.tb := by cases u <;> rfl
@[simp] theorem Cia.setPortDir_cra (x : Cia) (u : TimerId) (t : Byte) : (x.setPortDir u t).cra = x.cra := by cases u <;> rfl
@[simp] theorem Cia.setPortDir_crb (x : Cia) (u : TimerId) (t : Byte) : (x.setPortDir u t).crb = x.crb := by cases u <;> rfl
@[simp] theorem Cia.setPortDir_mask (x : Cia) (u : TimerId) (t : Byte) : (x.setPortDir u t).mask = x.mask := by cases u <;> rfl
@[simp] theorem Cia.setPortDir_flags (x : Cia) (u : TimerId) (t : Byte) : (x.setPortDir u t).flags = x.flags := by cases u <;> rfl
@[simp] theorem Cia.setPortDir_ir (x : Cia) (u : TimerId) (t : Byte) : (x.setPortDir u t).ir = x.ir := by cases u <;> rfl

/-! ## Stopping -/

@[simp] theorem State.stopped_emit (s : State) (o : Output) : (s.emit o).stopped = s.stopped := rfl
@[simp] theorem State.stopped_raiseFault (s : State) (c : FaultCode) : (s.raiseFault c).stopped = true := rfl
@[simp] theorem State.stopped_raiseRefusal (s : State) (c : RefusalCode) : (s.raiseRefusal c).stopped = true := by
  simp [State.stopped]
@[simp] theorem State.stopped_setCia (s : State) (c : Chip) (x : Cia) : (s.setCia c x).stopped = s.stopped := by
  cases c <;> rfl
@[simp] theorem State.stopped_dequeue (s : State) (h : Handle) : (s.dequeue h).stopped = s.stopped := rfl
@[simp] theorem State.stopped_afterDraw (s : State) : s.afterDraw.stopped = s.stopped := rfl
@[simp] theorem State.stopped_assertLine (s : State) (l : Line) (i : BitVec 4) (b : Bool) :
    (s.assertLine l i b).stopped = s.stopped := by cases l <;> rfl
@[simp] theorem State.stopped_raiseInterrupt (s : State) (c : Chip) (b : Bool) :
    (s.raiseInterrupt c b).stopped = s.stopped := by cases c <;> rfl

theorem State.stopped_eq_false {s : State} : s.stopped = false ↔ s.fault = none ∧ s.refusal = none := by
  simp [State.stopped]

end Sys2Proof.Machine
end

