-- ==== Sys2Proof/Laws/Fields.lean ====
section
/-! SUPPORT. A field taken from a word that the encoder built is the field that was put in
(30_encoding.md R114 to R123), and a 64-bit operand is its two words. -/

namespace Sys2Proof

/-! ## Placing and extracting -/

theorem getLsbD_place {n : Nat} (v : BitVec n) (k i : Nat) :
    (place v k).getLsbD i = (decide (i < 32) && decide (k ≤ i) && v.getLsbD (i - k)) := by
  simp only [place, BitVec.getLsbD_shiftLeft, BitVec.getLsbD_setWidth]
  by_cases h1 : i < 32
  · by_cases h2 : k ≤ i
    · simp [h1, h2, show i - k < 32 by omega]
    · simp [h2, show i < k by omega]
  · simp [h1]

theorem extract_or (x y : Word) (lo len : Nat) :
    (x ||| y).extractLsb' lo len = x.extractLsb' lo len ||| y.extractLsb' lo len := by
  ext i hi; simp

theorem extract_place {n : Nat} (v : BitVec n) (k : Nat) (h : k + n ≤ 32) :
    (place v k).extractLsb' k n = v := by
  ext i hi
  rw [BitVec.getElem_extractLsb', getLsbD_place]
  simp [show k + i < 32 by omega, BitVec.getLsbD_eq_getElem hi]

theorem extract_place_other {n : Nat} (v : BitVec n) (k lo len : Nat) (h : k + n ≤ lo ∨ lo + len ≤ k) :
    (place v k).extractLsb' lo len = 0#len := by
  ext i hi
  simp only [BitVec.getElem_extractLsb', getLsbD_place, BitVec.getElem_zero]
  rcases h with h | h
  · rw [BitVec.getLsbD_of_ge v _ (by omega)]; simp
  · simp [show ¬ k ≤ lo + i by omega]

theorem getLsbD_place_other {n : Nat} (v : BitVec n) (k i : Nat) (h : k + n ≤ i ∨ i < k) :
    (place v k).getLsbD i = false := by
  rw [getLsbD_place]
  rcases h with h | h
  · rw [BitVec.getLsbD_of_ge v _ (by omega)]; simp
  · simp [show ¬ k ≤ i by omega]

theorem getLsbD_placeBit (b : Bool) (k : Nat) (h : k < 32) : (placeBit b k).getLsbD k = b := by
  rw [placeBit, getLsbD_place]; simp [h]

theorem getLsbD_placeBit_other (b : Bool) (k i : Nat) (h : i ≠ k) : (placeBit b k).getLsbD i = false :=
  getLsbD_place_other _ _ _ (by omega)

theorem extract_placeBit_other (b : Bool) (k lo len : Nat) (h : k < lo ∨ lo + len ≤ k) :
    (placeBit b k).extractLsb' lo len = 0#len :=
  extract_place_other _ _ _ _ (by omega)

/-- A mask of one field is clear exactly when the field is 0. -/
theorem and_mask_eq_zero (w : Word) (lo len : Nat) (h : lo + len ≤ 32) :
    w &&& ((BitVec.allOnes len).setWidth 32 <<< lo) = 0#32 ↔ w.extractLsb' lo len = 0#len := by
  constructor
  · intro hw
    ext i hi
    have := congrArg (fun v => v.getLsbD (lo + i)) hw
    simpa [show lo + i < 32 by omega, hi] using this
  · intro hw
    apply BitVec.eq_of_getLsbD_eq
    intro i hi
    by_cases h2 : lo ≤ i ∧ i < lo + len
    · have := congrArg (fun v => v.getLsbD (i - lo)) hw
      simp [show i - lo < len by omega, show lo + (i - lo) = i by omega] at this
      simp [this]
    · simp only [BitVec.getLsbD_and, BitVec.getLsbD_shiftLeft, BitVec.getLsbD_setWidth, BitVec.getLsbD_zero]
      by_cases h3 : i < lo
      · simp [h3]
      · rw [BitVec.getLsbD_of_ge (BitVec.allOnes len) _ (by omega)]; simp

theorem and_or_eq_zero {w m n : Word} : w &&& (m ||| n) = 0#32 ↔ w &&& m = 0#32 ∧ w &&& n = 0#32 := by
  constructor
  · intro h
    constructor <;>
    · apply BitVec.eq_of_getLsbD_eq
      intro i hi
      have := congrArg (fun v => v.getLsbD i) h
      simp only [BitVec.getLsbD_and, BitVec.getLsbD_or, BitVec.getLsbD_zero] at this ⊢
      revert this
      cases w.getLsbD i <;> cases m.getLsbD i <;> cases n.getLsbD i <;> simp
  · rintro ⟨h1, h2⟩
    rw [BitVec.and_or_distrib_left, h1, h2]; rfl

/-! ## The reserved masks of the formats (R114 to R121) as fields -/

theorem reserved_read_iff (w : Word) : w &&& 0x0FFF0000#32 = 0#32 ↔ w.extractLsb' 16 12 = 0#12 :=
  and_mask_eq_zero w 16 12 (by decide)

theorem reserved_write_iff (w : Word) : w &&& 0x0F000000#32 = 0#32 ↔ w.extractLsb' 24 4 = 0#4 :=
  and_mask_eq_zero w 24 4 (by decide)

theorem reserved_schedule_iff (w : Word) : w &&& 0x00FF0000#32 = 0#32 ↔ w.extractLsb' 16 8 = 0#8 :=
  and_mask_eq_zero w 16 8 (by decide)

theorem reserved_rest_iff (w : Word) : w &&& 0x0FFFFFFF#32 = 0#32 ↔ w.extractLsb' 0 28 = 0#28 :=
  and_mask_eq_zero w 0 28 (by decide)

theorem reserved_setbus_iff (w : Word) : w &&& 0x0FFFFF00#32 = 0#32 ↔ w.extractLsb' 8 20 = 0#20 :=
  and_mask_eq_zero w 8 20 (by decide)

theorem reserved_cart_iff (w : Word) : w &&& 0x0FFFFFF8#32 = 0#32 ↔ w.extractLsb' 3 25 = 0#25 :=
  and_mask_eq_zero w 3 25 (by decide)

theorem reserved_assert_iff (w : Word) : w &&& 0x0FFFEEF0#32 = 0#32 ↔
    (w.extractLsb' 13 15 = 0#15 ∧ w.extractLsb' 9 3 = 0#3) ∧ w.extractLsb' 4 4 = 0#4 := by
  rw [show 0x0FFFEEF0#32 = ((BitVec.allOnes 15).setWidth 32 <<< 13 ||| (BitVec.allOnes 3).setWidth 32 <<< 9) |||
    (BitVec.allOnes 4).setWidth 32 <<< 4 from rfl, and_or_eq_zero, and_or_eq_zero,
    and_mask_eq_zero w _ _ (by decide), and_mask_eq_zero w _ _ (by decide), and_mask_eq_zero w _ _ (by decide)]

theorem reserved_line_iff (w : Word) : w &&& 0x0FFFFEFF#32 = 0#32 ↔
    w.extractLsb' 9 19 = 0#19 ∧ w.extractLsb' 0 8 = 0#8 := by
  rw [show 0x0FFFFEFF#32 = (BitVec.allOnes 19).setWidth 32 <<< 9 ||| (BitVec.allOnes 8).setWidth 32 <<< 0 from rfl,
    and_or_eq_zero, and_mask_eq_zero w _ _ (by decide), and_mask_eq_zero w _ _ (by decide)]

/-! ## Format B (R114) -/

@[simp] theorem opField_headerB (op : BitVec 4) (d : Byte) (a : Addr) : opField (headerB op d a) = op := by
  simp [opField, headerB, extract_or, extract_place, extract_place_other]

@[simp] theorem dataField_headerB (op : BitVec 4) (d : Byte) (a : Addr) : dataField (headerB op d a) = d := by
  simp [dataField, headerB, extract_or, extract_place, extract_place_other]

@[simp] theorem addrField_headerB (op : BitVec 4) (d : Byte) (a : Addr) : addrField (headerB op d a) = a := by
  simp [addrField, headerB, extract_or, extract_place, extract_place_other]

theorem headerB_reserved (op : BitVec 4) (d : Byte) (a : Addr) : headerB op d a &&& 0x0F000000#32 = 0#32 := by
  rw [reserved_write_iff]; simp [headerB, extract_or, extract_place_other]

theorem headerB_reserved_read (op : BitVec 4) (a : Addr) : headerB op 0#8 a &&& 0x0FFF0000#32 = 0#32 := by
  have h : (place 0#8 16).extractLsb' 16 12 = 0#12 := by decide
  rw [reserved_read_iff]; simp [headerB, extract_or, extract_place_other, h]

/-! ## An operation and 28 bits (R116 to R118) -/

@[simp] theorem opField_headerN (op : BitVec 4) (r : BitVec 28) : opField (headerN op r) = op := by
  simp [opField, headerN, extract_or, extract_place, extract_place_other]

@[simp] theorem restField_headerN (op : BitVec 4) (r : BitVec 28) : restField (headerN op r) = r := by
  simp [restField, headerN, extract_or, extract_place, extract_place_other]

theorem headerN_reserved (op : BitVec 4) : headerN op 0#28 &&& 0x0FFFFFFF#32 = 0#32 := by
  rw [reserved_rest_iff]; exact restField_headerN op 0#28

/-! ## Format S (R115) -/

@[simp] theorem opField_headerS (p : BitVec 4) (t : BitVec 16) : opField (headerS p t) = 0x3#4 := by
  simp [opField, headerS, extract_or, extract_place, extract_place_other]

@[simp] theorem phaseField_headerS (p : BitVec 4) (t : BitVec 16) : phaseField (headerS p t) = p := by
  simp [phaseField, headerS, extract_or, extract_place, extract_place_other]

@[simp] theorem addrField_headerS (p : BitVec 4) (t : BitVec 16) : addrField (headerS p t) = t := by
  simp [addrField, headerS, extract_or, extract_place, extract_place_other]

theorem headerS_reserved (p : BitVec 4) (t : BitVec 16) : headerS p t &&& 0x00FF0000#32 = 0#32 := by
  rw [reserved_schedule_iff]; simp [headerS, extract_or, extract_place_other]

/-! ## Format I (R119) -/

@[simp] theorem opField_headerI (op : BitVec 4) (b : Bool) (l : Line) (src : BitVec 4) :
    opField (headerI op b l src) = op := by
  simp [opField, headerI, extract_or, extract_place, extract_place_other, extract_placeBit_other]

@[simp] theorem activeField_headerI (op : BitVec 4) (b : Bool) (l : Line) (src : BitVec 4) :
    activeField (headerI op b l src) = b := by
  rw [activeField, headerI, BitVec.getLsbD_or, BitVec.getLsbD_or, BitVec.getLsbD_or,
    getLsbD_place_other op _ _ (by omega), getLsbD_place_other src _ _ (by omega),
    getLsbD_placeBit _ _ (by omega), getLsbD_placeBit_other _ _ _ (by omega)]
  simp

@[simp] theorem lineField_headerI (op : BitVec 4) (b : Bool) (l : Line) (src : BitVec 4) :
    lineField (headerI op b l src) = l := by
  rw [lineField, headerI, BitVec.getLsbD_or, BitVec.getLsbD_or, BitVec.getLsbD_or,
    getLsbD_place_other op _ _ (by omega), getLsbD_place_other src _ _ (by omega),
    getLsbD_placeBit _ _ (by omega), getLsbD_placeBit_other _ _ _ (by omega)]
  cases l <;> simp [lineBit]

@[simp] theorem srcField_headerI (op : BitVec 4) (b : Bool) (l : Line) (src : BitVec 4) :
    srcField (headerI op b l src) = src := by
  simp [srcField, headerI, extract_or, extract_place, extract_place_other, extract_placeBit_other]

theorem headerI_reserved (op : BitVec 4) (b : Bool) (l : Line) (src : BitVec 4) :
    headerI op b l src &&& 0x0FFFEEF0#32 = 0#32 := by
  rw [reserved_assert_iff]; simp [headerI, extract_or, extract_place_other, extract_placeBit_other]

theorem headerI_reserved_line (op : BitVec 4) (l : Line) : headerI op false l 0#4 &&& 0x0FFFFEFF#32 = 0#32 := by
  have h : (place 0#4 0).extractLsb' 0 8 = 0#8 := by decide
  have h' : (placeBit false 12).extractLsb' 9 19 = 0#19 := by decide
  rw [reserved_line_iff]; simp [headerI, extract_or, extract_place_other, extract_placeBit_other, h, h']

/-! ## Formats Y and K (R120, R121) -/

@[simp] theorem opField_headerY (b : Byte) : opField (headerY b) = 0xB#4 := by
  simp [opField, headerY, extract_or, extract_place, extract_place_other]

@[simp] theorem byteField_headerY (b : Byte) : byteField (headerY b) = b := by
  simp [byteField, headerY, extract_or, extract_place, extract_place_other]

theorem headerY_reserved (b : Byte) : headerY b &&& 0x0FFFFF00#32 = 0#32 := by
  rw [reserved_setbus_iff]; simp [headerY, extract_or, extract_place_other]

@[simp] theorem opField_headerK (p e g : Bool) : opField (headerK p e g) = 0xC#4 := by
  cases p <;> cases e <;> cases g <;> rfl

@[simp] theorem presentField_headerK (p e g : Bool) : presentField (headerK p e g) = p := by
  cases p <;> cases e <;> cases g <;> rfl

@[simp] theorem exromField_headerK (p e g : Bool) : exromField (headerK p e g) = e := by
  cases p <;> cases e <;> cases g <;> rfl

@[simp] theorem gameField_headerK (p e g : Bool) : gameField (headerK p e g) = g := by
  cases p <;> cases e <;> cases g <;> rfl

theorem headerK_reserved (p e g : Bool) : headerK p e g &&& 0x0FFFFFF8#32 = 0#32 := by
  cases p <;> cases e <;> cases g <;> rfl

/-! ## 64-bit operands (R112) -/

@[simp] theorem wideField_low_high (v : BitVec 64) : wideField (lowWord v) (highWord v) = v := by
  unfold wideField lowWord highWord
  apply BitVec.eq_of_getLsbD_eq
  intro i hi
  by_cases h : i < 32
  · simp [hi, h]
  · simp [hi, h, show i - 32 < 32 by omega, show 32 + (i - 32) = i by omega]

@[simp] theorem lowWord_wideField (x0 x1 : Word) : lowWord (wideField x0 x1) = x0 := by
  unfold wideField lowWord; ext i hi; simp [hi, show i < 64 by omega]

@[simp] theorem highWord_wideField (x0 x1 : Word) : highWord (wideField x0 x1) = x1 := by
  unfold wideField highWord; ext i hi; simp [hi, show 32 + i < 64 by omega]

/-! ## A word is the header of its fields when its reserved bits are 0 -/

theorem getLsbD_place_extract (w : Word) (k n i : Nat) :
    (place (w.extractLsb' k n) k).getLsbD i =
      (decide (i < 32) && decide (k ≤ i) && decide (i < k + n) && w.getLsbD i) := by
  rw [getLsbD_place, BitVec.getLsbD_extractLsb']
  by_cases h2 : k ≤ i
  · by_cases h3 : i < k + n
    · simp [h2, h3, show i - k < n by omega, show k + (i - k) = i by omega]
    · simp [h3, show ¬ i - k < n by omega]
  · simp [h2]

theorem getLsbD_of_extract_zero {w : Word} {lo len i : Nat} (h : w.extractLsb' lo len = 0#len)
    (h1 : lo ≤ i) (h2 : i < lo + len) : w.getLsbD i = false := by
  have := congrArg (fun v => v.getLsbD (i - lo)) h
  simpa [BitVec.getLsbD_extractLsb', show i - lo < len by omega, show lo + (i - lo) = i by omega] using this

theorem headerB_fields {w : Word} (h : w.extractLsb' 24 4 = 0#4) :
    headerB (opField w) (dataField w) (addrField w) = w := by
  apply BitVec.eq_of_getLsbD_eq
  intro i hi
  simp only [headerB, opField, dataField, addrField, BitVec.getLsbD_or, getLsbD_place_extract]
  by_cases hr : 24 ≤ i ∧ i < 28
  · rw [getLsbD_of_extract_zero h hr.1 (by omega)]; simp
  · cases w.getLsbD i
    · simp
    · simp [hi]; omega

theorem headerS_fields {w : Word} (ho : opField w = 0x3#4) (h : w.extractLsb' 16 8 = 0#8) :
    headerS (phaseField w) (addrField w) = w := by
  rw [headerS, ← ho]
  apply BitVec.eq_of_getLsbD_eq
  intro i hi
  simp only [opField, phaseField, addrField, BitVec.getLsbD_or, getLsbD_place_extract]
  by_cases hr : 16 ≤ i ∧ i < 24
  · rw [getLsbD_of_extract_zero h hr.1 (by omega)]; simp
  · cases w.getLsbD i
    · simp
    · simp [hi]; omega

theorem headerN_fields (w : Word) : headerN (opField w) (restField w) = w := by
  apply BitVec.eq_of_getLsbD_eq
  intro i hi
  simp only [headerN, opField, restField, BitVec.getLsbD_or, getLsbD_place_extract]
  cases w.getLsbD i
  · simp
  · simp [hi]; omega

theorem lineBit_lineField (w : Word) : lineBit (lineField w) = w.getLsbD 8 := by
  unfold lineField; cases h : w.getLsbD 8 <;> rfl

theorem getLsbD_placeBit_eq (w : Word) (k i : Nat) (hk : k < 32) :
    (placeBit (w.getLsbD k) k).getLsbD i = (decide (i = k) && w.getLsbD i) := by
  by_cases h : i = k
  · subst h; rw [getLsbD_placeBit _ _ hk]; simp
  · rw [getLsbD_placeBit_other _ _ _ h]; simp [h]

theorem headerI_fields {w : Word} (h : w &&& 0x0FFFEEF0#32 = 0#32) :
    headerI (opField w) (activeField w) (lineField w) (srcField w) = w := by
  obtain ⟨⟨h1, h2⟩, h3⟩ := (reserved_assert_iff w).1 h
  rw [headerI, lineBit_lineField]
  apply BitVec.eq_of_getLsbD_eq
  intro i hi
  simp only [opField, activeField, srcField, BitVec.getLsbD_or, getLsbD_place_extract,
    getLsbD_placeBit_eq w 12 i (by omega), getLsbD_placeBit_eq w 8 i (by omega)]
  by_cases r1 : 13 ≤ i ∧ i < 28
  · rw [getLsbD_of_extract_zero h1 r1.1 (by omega)]; simp
  by_cases r2 : 9 ≤ i ∧ i < 12
  · rw [getLsbD_of_extract_zero h2 r2.1 (by omega)]; simp
  by_cases r3 : 4 ≤ i ∧ i < 8
  · rw [getLsbD_of_extract_zero h3 r3.1 (by omega)]; simp
  cases w.getLsbD i
  · simp
  · simp [hi]; omega

theorem headerY_fields {w : Word} (ho : opField w = 0xB#4) (h : w.extractLsb' 8 20 = 0#20) :
    headerY (byteField w) = w := by
  rw [headerY, ← ho]
  apply BitVec.eq_of_getLsbD_eq
  intro i hi
  simp only [opField, byteField, BitVec.getLsbD_or, getLsbD_place_extract]
  by_cases hr : 8 ≤ i ∧ i < 28
  · rw [getLsbD_of_extract_zero h hr.1 (by omega)]; simp
  · cases w.getLsbD i
    · simp
    · simp [hi]; omega

theorem headerK_fields {w : Word} (ho : opField w = 0xC#4) (h : w.extractLsb' 3 25 = 0#25) :
    headerK (presentField w) (exromField w) (gameField w) = w := by
  rw [headerK, ← ho]
  apply BitVec.eq_of_getLsbD_eq
  intro i hi
  simp only [opField, presentField, exromField, gameField, BitVec.getLsbD_or, getLsbD_place_extract,
    getLsbD_placeBit_eq w 2 i (by omega), getLsbD_placeBit_eq w 1 i (by omega), getLsbD_placeBit_eq w 0 i (by omega)]
  by_cases hr : 3 ≤ i ∧ i < 28
  · rw [getLsbD_of_extract_zero h hr.1 (by omega)]; simp
  cases w.getLsbD i
  · simp
  · simp [hi]; omega

/-! ## Bytes of a 16-bit register (20_memory.md R72) -/

@[simp] theorem lowByte_withLowByte (v : BitVec 16) (b : Byte) : lowByte (withLowByte v b) = b := by
  unfold lowByte withLowByte; ext i hi; interval_cases i <;> simp

@[simp] theorem highByte_withLowByte (v : BitVec 16) (b : Byte) : highByte (withLowByte v b) = highByte v := by
  unfold highByte withLowByte highByte; ext i hi; interval_cases i <;> simp

@[simp] theorem lowByte_withHighByte (v : BitVec 16) (b : Byte) : lowByte (withHighByte v b) = lowByte v := by
  unfold lowByte withHighByte lowByte; ext i hi; interval_cases i <;> simp

@[simp] theorem highByte_withHighByte (v : BitVec 16) (b : Byte) : highByte (withHighByte v b) = b := by
  unfold highByte withHighByte lowByte; ext i hi; interval_cases i <;> simp

end Sys2Proof
end

