-- ==== Sys2Proof/Laws/Commands.lean ====
section
/-! SUPPORT. The commands, apart from the rows: how to take one apart, its words, and what the decoder
does on an OP. Later proofs use these instead of unfolding `encode`, `fetch` and `decodeWords`. -/

namespace Sys2Proof

/-- What holds of every command and reserved OP holds of an instruction that is one. -/
theorem isCommand_cases {P : Instr → Prop} (i : Instr) (h : i.isCommand = true)
    (read : ∀ a, P (.read a)) (write : ∀ a v, P (.write a v)) (schedule : ∀ d p t, P (.schedule d p t))
    (cancel : ∀ k, P (.cancel k)) (cycle : P .cycle) (advance : ∀ n, P (.advance n)) (ret : P .ret)
    (assert : ∀ l n b, P (.assert l n b)) (sample : ∀ l, P (.sample l)) (ack : P .ack)
    (setbus : ∀ b, P (.setbus b)) (cart : ∀ p e g, P (.cart p e g)) (op0 : ∀ r, P (.reservedOp0 r))
    (opD : ∀ r, P (.reservedOpD r)) (opE : ∀ r, P (.reservedOpE r)) (opF : ∀ r, P (.reservedOpF r)) : P i := by
  have h := of_decide_eq_true h
  cases i <;> first | (cases h; done) | skip
  case read => exact read _
  case write => exact write _ _
  case schedule => exact schedule _ _ _
  case cancel => exact cancel _
  case cycle => exact cycle
  case advance => exact advance _
  case ret => exact ret
  case assert => exact assert _ _ _
  case sample => exact sample _
  case ack => exact ack
  case setbus => exact setbus _
  case cart => exact cart _ _ _
  case reservedOp0 => exact op0 _
  case reservedOpD => exact opD _
  case reservedOpE => exact opE _
  case reservedOpF => exact opF _

/-! ## The words of a command -/

theorem encode_read (a : Addr) : encode (.read a) = [headerB 0x1#4 0#8 a] := rfl
theorem encode_write (a : Addr) (v : Byte) : encode (.write a v) = [headerB 0x2#4 v a] := rfl
theorem encode_schedule (d : BitVec 64) (p : BitVec 4) (t : BitVec 16) :
    encode (.schedule d p t) = [headerS p t, lowWord d, highWord d] := rfl
theorem encode_cancel (h : Handle) : encode (.cancel h) = [headerN 0x4#4 0#28, lowWord h, highWord h] := rfl
theorem encode_cycle : encode .cycle = [headerN 0x5#4 0#28] := rfl
theorem encode_advance (n : BitVec 28) : encode (.advance n) = [headerN 0x6#4 n] := rfl
theorem encode_ret : encode .ret = [headerN 0x7#4 0#28] := rfl
theorem encode_assert (l : Line) (n : BitVec 4) (b : Bool) : encode (.assert l n b) = [headerI 0x8#4 b l n] := rfl
theorem encode_sample (l : Line) : encode (.sample l) = [headerI 0x9#4 false l 0#4] := rfl
theorem encode_ack : encode .ack = [headerI 0xA#4 false .nmi 0#4] := rfl
theorem encode_setbus (b : Byte) : encode (.setbus b) = [headerY b] := rfl
theorem encode_cart (p e g : Bool) : encode (.cart p e g) = [headerK p e g] := rfl
theorem encode_reservedOp0 (r : BitVec 28) : encode (.reservedOp0 r) = [headerN 0x0#4 r] := rfl
theorem encode_reservedOpD (r : BitVec 28) : encode (.reservedOpD r) = [headerN 0xD#4 r] := rfl
theorem encode_reservedOpE (r : BitVec 28) : encode (.reservedOpE r) = [headerN 0xE#4 r] := rfl
theorem encode_reservedOpF (r : BitVec 28) : encode (.reservedOpF r) = [headerN 0xF#4 r] := rfl

/-- A row's words are its command's. -/
theorem encode_eq_command (i : Instr) : encode i = encode i.command := by
  cases i <;> rfl

/-- A row's command is a command. -/
theorem command_isCommand (i : Instr) : i.command.isCommand = true := by
  cases i <;> exact decide_eq_true rfl

/-! ## Taking words from a stream -/

theorem fetch_one {w : Word} (h : hasExtension w = false) (rest : List Word) :
    fetch (w :: rest) = some ⟨w, 0#32, 0#32, rest⟩ := by
  simp [fetch, h]

theorem fetch_three {w : Word} (h : hasExtension w = true) (x0 x1 : Word) (rest : List Word) :
    fetch (w :: x0 :: x1 :: rest) = some ⟨w, x0, x1, rest⟩ := by
  simp [fetch, h]

theorem hasExtension_iff (w : Word) : hasExtension w = true ↔ opField w = 0x3#4 ∨ opField w = 0x4#4 := by
  simp [hasExtension]

/-! ## Decoding by OP (R113) -/

theorem decodeWords_reservedOp0 {w : Word} (x0 x1 : Word) (h : opField w = 0x0#4) :
    decodeWords w x0 x1 = .ok (.reservedOp0 (restField w)) := by
  simp only [decodeWords, h, reduceIte]

theorem decodeWords_read {w : Word} (x0 x1 : Word) (h : opField w = 0x1#4) :
    decodeWords w x0 x1 = ifReservedClear w 0x0FFF0000#32 (.ok (.read (addrField w))) := by
  simp only [decodeWords, h]; rfl

theorem decodeWords_write {w : Word} (x0 x1 : Word) (h : opField w = 0x2#4) :
    decodeWords w x0 x1 = ifReservedClear w 0x0F000000#32 (.ok (.write (addrField w) (dataField w))) := by
  simp only [decodeWords, h]; rfl

theorem decodeWords_schedule {w : Word} (x0 x1 : Word) (h : opField w = 0x3#4) :
    decodeWords w x0 x1 =
      ifReservedClear w 0x00FF0000#32 (.ok (.schedule (wideField x0 x1) (phaseField w) (addrField w))) := by
  simp only [decodeWords, h]; rfl

theorem decodeWords_cancel {w : Word} (x0 x1 : Word) (h : opField w = 0x4#4) :
    decodeWords w x0 x1 = ifReservedClear w 0x0FFFFFFF#32 (.ok (.cancel (wideField x0 x1))) := by
  simp only [decodeWords, h]; rfl

theorem decodeWords_cycle {w : Word} (x0 x1 : Word) (h : opField w = 0x5#4) :
    decodeWords w x0 x1 = ifReservedClear w 0x0FFFFFFF#32 (.ok .cycle) := by
  simp only [decodeWords, h]; rfl

theorem decodeWords_advance {w : Word} (x0 x1 : Word) (h : opField w = 0x6#4) :
    decodeWords w x0 x1 = .ok (.advance (restField w)) := by
  simp only [decodeWords, h]; rfl

theorem decodeWords_ret {w : Word} (x0 x1 : Word) (h : opField w = 0x7#4) :
    decodeWords w x0 x1 = ifReservedClear w 0x0FFFFFFF#32 (.ok .ret) := by
  simp only [decodeWords, h]; rfl

theorem decodeWords_assert {w : Word} (x0 x1 : Word) (h : opField w = 0x8#4) :
    decodeWords w x0 x1 = ifReservedClear w 0x0FFFEEF0#32
      (if srcField w = 0#4 then .error .assertSourceZero
       else .ok (.assert (lineField w) (srcField w) (activeField w))) := by
  simp only [decodeWords, h]; rfl

theorem decodeWords_sample {w : Word} (x0 x1 : Word) (h : opField w = 0x9#4) :
    decodeWords w x0 x1 = ifReservedClear w 0x0FFFFEFF#32 (.ok (.sample (lineField w))) := by
  simp only [decodeWords, h]; rfl

theorem decodeWords_ack {w : Word} (x0 x1 : Word) (h : opField w = 0xA#4) :
    decodeWords w x0 x1 = ifReservedClear w 0x0FFFFEFF#32
      (if lineField w = .nmi then .ok .ack else .error .ackIrq) := by
  simp only [decodeWords, h]; rfl

theorem decodeWords_setbus {w : Word} (x0 x1 : Word) (h : opField w = 0xB#4) :
    decodeWords w x0 x1 = ifReservedClear w 0x0FFFFF00#32 (.ok (.setbus (byteField w))) := by
  simp only [decodeWords, h]; rfl

theorem decodeWords_cart {w : Word} (x0 x1 : Word) (h : opField w = 0xC#4) :
    decodeWords w x0 x1 = ifReservedClear w 0x0FFFFFF8#32
      (if presentField w || (exromField w && gameField w) then
        .ok (.cart (presentField w) (exromField w) (gameField w))
       else .error .cartLines) := by
  simp only [decodeWords, h]; rfl

theorem decodeWords_reservedOpD {w : Word} (x0 x1 : Word) (h : opField w = 0xD#4) :
    decodeWords w x0 x1 = .ok (.reservedOpD (restField w)) := by
  simp only [decodeWords, h]; rfl

theorem decodeWords_reservedOpE {w : Word} (x0 x1 : Word) (h : opField w = 0xE#4) :
    decodeWords w x0 x1 = .ok (.reservedOpE (restField w)) := by
  simp only [decodeWords, h]; rfl

theorem decodeWords_reservedOpF {w : Word} (x0 x1 : Word) (h : opField w = 0xF#4) :
    decodeWords w x0 x1 = .ok (.reservedOpF (restField w)) := by
  simp only [decodeWords, h]; rfl

/-- The sixteen OPs. -/
theorem opField_cases (w : Word) :
    opField w = 0x0#4 ∨ opField w = 0x1#4 ∨ opField w = 0x2#4 ∨ opField w = 0x3#4 ∨ opField w = 0x4#4 ∨
    opField w = 0x5#4 ∨ opField w = 0x6#4 ∨ opField w = 0x7#4 ∨ opField w = 0x8#4 ∨ opField w = 0x9#4 ∨
    opField w = 0xA#4 ∨ opField w = 0xB#4 ∨ opField w = 0xC#4 ∨ opField w = 0xD#4 ∨ opField w = 0xE#4 ∨
    opField w = 0xF#4 := by
  generalize opField w = o
  revert o; decide

theorem ifReservedClear_ok {w m : Word} {r : Except DecodeError Instr} {i : Instr} :
    ifReservedClear w m r = .ok i ↔ w &&& m = 0#32 ∧ r = .ok i := by
  unfold ifReservedClear; split <;> simp_all

theorem ifReservedClear_of_clear {w m : Word} (h : w &&& m = 0#32) (r : Except DecodeError Instr) :
    ifReservedClear w m r = r := by
  simp [ifReservedClear, h]

/-- The decoder gives a well-formed command (30_encoding.md R122). -/
theorem decodeWords_wf {w x0 x1 : Word} {i : Instr} (hd : decodeWords w x0 x1 = .ok i) :
    i.wf = true ∧ i.isCommand = true := by
  rcases opField_cases w with h | h | h | h | h | h | h | h | h | h | h | h | h | h | h | h
  · rw [decodeWords_reservedOp0 _ _ h] at hd; cases hd; exact ⟨rfl, decide_eq_true rfl⟩
  · rw [decodeWords_read _ _ h, ifReservedClear_ok] at hd; cases hd.2; exact ⟨rfl, decide_eq_true rfl⟩
  · rw [decodeWords_write _ _ h, ifReservedClear_ok] at hd; cases hd.2; exact ⟨rfl, decide_eq_true rfl⟩
  · rw [decodeWords_schedule _ _ h, ifReservedClear_ok] at hd; cases hd.2; exact ⟨rfl, decide_eq_true rfl⟩
  · rw [decodeWords_cancel _ _ h, ifReservedClear_ok] at hd; cases hd.2; exact ⟨rfl, decide_eq_true rfl⟩
  · rw [decodeWords_cycle _ _ h, ifReservedClear_ok] at hd; cases hd.2; exact ⟨rfl, decide_eq_true rfl⟩
  · rw [decodeWords_advance _ _ h] at hd; cases hd; exact ⟨rfl, decide_eq_true rfl⟩
  · rw [decodeWords_ret _ _ h, ifReservedClear_ok] at hd; cases hd.2; exact ⟨rfl, decide_eq_true rfl⟩
  · rw [decodeWords_assert _ _ h, ifReservedClear_ok] at hd
    have hd := hd.2
    split at hd <;> cases hd
    exact ⟨by simpa [Instr.wf] using ‹_›, decide_eq_true rfl⟩
  · rw [decodeWords_sample _ _ h, ifReservedClear_ok] at hd; cases hd.2; exact ⟨rfl, decide_eq_true rfl⟩
  · rw [decodeWords_ack _ _ h, ifReservedClear_ok] at hd
    have hd := hd.2
    split at hd <;> cases hd
    exact ⟨rfl, decide_eq_true rfl⟩
  · rw [decodeWords_setbus _ _ h, ifReservedClear_ok] at hd; cases hd.2; exact ⟨rfl, decide_eq_true rfl⟩
  · rw [decodeWords_cart _ _ h, ifReservedClear_ok] at hd
    have hd := hd.2
    split at hd <;> cases hd
    exact ⟨‹_›, decide_eq_true rfl⟩
  · rw [decodeWords_reservedOpD _ _ h] at hd; cases hd; exact ⟨rfl, decide_eq_true rfl⟩
  · rw [decodeWords_reservedOpE _ _ h] at hd; cases hd; exact ⟨rfl, decide_eq_true rfl⟩
  · rw [decodeWords_reservedOpF _ _ h] at hd; cases hd; exact ⟨rfl, decide_eq_true rfl⟩

/-- What `decode` answers: the words were fetched and decoded. -/
theorem decode_ok {ws rest : List Word} {i : Instr} :
    decode ws = .ok (i, rest) ↔
      ∃ f, fetch ws = some f ∧ decodeWords f.w f.x0 f.x1 = .ok i ∧ f.rest = rest := by
  unfold decode
  split
  · simp_all
  · split <;> simp_all

end Sys2Proof
end

