-- ==== Sys2Proof/Laws/Address.lean ====
section
/-! SUPPORT. The parts of a bus address: as numbers, and for an address that a row of the opcode table
covers (20_memory.md R79 to R81, 42_timer.md R230). -/

namespace Sys2Proof

theorem chipReg_toNat (a : Addr) : (chipReg a).toNat = a.toNat % 16 := by
  simp [chipReg, BitVec.extractLsb'_toNat]

theorem region_toNat (a : Addr) : (region a).toNat = a.toNat / 4096 := by
  have := a.isLt
  simp [region, BitVec.extractLsb'_toNat, Nat.shiftRight_eq_div_pow]; omega

theorem page_toNat (a : Addr) : (page a).toNat = a.toNat / 256 % 16 := by
  simp [page, BitVec.extractLsb'_toNat, Nat.shiftRight_eq_div_pow]

theorem colorIndex_eq (a : Addr) : colorIndex a = BitVec.ofNat 10 a.toNat := by
  apply BitVec.eq_of_toNat_eq; simp [colorIndex, BitVec.extractLsb'_toNat]

theorem romIndex8K_toNat (a : Addr) : (romIndex8K a).toNat = a.toNat % 8192 := by
  simp [romIndex8K, BitVec.extractLsb'_toNat]

theorem romIndex4K_toNat (a : Addr) : (romIndex4K a).toNat = a.toNat % 4096 := by
  simp [romIndex4K, BitVec.extractLsb'_toNat]

/-- Which of two is a function of the register offset alone. -/
theorem portSel_eq (a : Addr) : portSel a = if a.toNat % 2 = 0 then .a else .b := by
  unfold portSel
  rw [BitVec.getLsbD, Nat.testBit_zero]
  by_cases h : a.toNat % 2 = 0
  · simp [h]
  · simp [show a.toNat % 2 = 1 by omega]

theorem controlSel_eq (a : Addr) : controlSel a = if a.toNat % 2 = 0 then .a else .b := portSel_eq a

theorem timerSel_eq (a : Addr) : timerSel a = if a.toNat / 2 % 2 = 0 then .a else .b := by
  unfold timerSel
  rw [BitVec.getLsbD, Nat.testBit_eq_decide_div_mod_eq]
  by_cases h : a.toNat / 2 % 2 = 0
  · simp [h]
  · simp [show a.toNat / 2 % 2 = 1 by omega]

/-- The register offset of an address that a chip row covers. -/
theorem chipReg_of_ciaAddrIn {c : Chip} {m v a : Addr} (h : ciaAddrIn c m v a = true) :
    chipReg a &&& m.setWidth 4 = v.setWidth 4 := by
  have h := congrArg (fun x : Addr => x.setWidth 4) (eq_of_beq h)
  have hc : chipReg a = a.setWidth 4 := by
    apply BitVec.eq_of_toNat_eq; rw [chipReg_toNat]; simp
  have h1 : (a &&& (0xFF00#16 ||| m)).setWidth 4 = a.setWidth 4 &&& m.setWidth 4 := by
    rw [BitVec.setWidth_and, BitVec.setWidth_or]; simp
  have h2 : (chipPage c ||| v).setWidth 4 = v.setWidth 4 := by
    cases c <;> (rw [BitVec.setWidth_or]; simp [chipPage])
  rw [hc, ← h1, ← h2]; exact h

theorem ciaPr_offset {c : Chip} {a : Addr} (h : ciaAddrIn c 0x000E#16 0x0000#16 a = true) : a.toNat % 16 < 2 := by
  have h := chipReg_of_ciaAddrIn h
  rw [← chipReg_toNat]; revert h; generalize chipReg a = o; revert o; decide

theorem ciaDdr_offset {c : Chip} {a : Addr} (h : ciaAddrIn c 0x000E#16 0x0002#16 a = true) :
    a.toNat % 16 = 2 ∨ a.toNat % 16 = 3 := by
  have h := chipReg_of_ciaAddrIn h
  rw [← chipReg_toNat]; revert h; generalize chipReg a = o; revert o; decide

theorem ciaTlo_offset {c : Chip} {a : Addr} (h : ciaAddrIn c 0x000D#16 0x0004#16 a = true) :
    a.toNat % 16 = 4 ∨ a.toNat % 16 = 6 := by
  have h := chipReg_of_ciaAddrIn h
  rw [← chipReg_toNat]; revert h; generalize chipReg a = o; revert o; decide

theorem ciaThi_offset {c : Chip} {a : Addr} (h : ciaAddrIn c 0x000D#16 0x0005#16 a = true) :
    a.toNat % 16 = 5 ∨ a.toNat % 16 = 7 := by
  have h := chipReg_of_ciaAddrIn h
  rw [← chipReg_toNat]; revert h; generalize chipReg a = o; revert o; decide

theorem ciaTod_offset {c : Chip} {a : Addr} (h : ciaAddrIn c 0x000C#16 0x0008#16 a = true) :
    8 ≤ a.toNat % 16 ∧ a.toNat % 16 < 12 := by
  have h := chipReg_of_ciaAddrIn h
  rw [← chipReg_toNat]; revert h; generalize chipReg a = o; revert o; decide

theorem ciaSdr_offset {c : Chip} {a : Addr} (h : ciaAddrIn c 0x000F#16 0x000C#16 a = true) : a.toNat % 16 = 12 := by
  have h := chipReg_of_ciaAddrIn h
  rw [← chipReg_toNat]; revert h; generalize chipReg a = o; revert o; decide

theorem ciaIcr_offset {c : Chip} {a : Addr} (h : ciaAddrIn c 0x000F#16 0x000D#16 a = true) : a.toNat % 16 = 13 := by
  have h := chipReg_of_ciaAddrIn h
  rw [← chipReg_toNat]; revert h; generalize chipReg a = o; revert o; decide

theorem ciaCr_offset {c : Chip} {a : Addr} (h : ciaAddrIn c 0x000E#16 0x000E#16 a = true) :
    a.toNat % 16 = 14 ∨ a.toNat % 16 = 15 := by
  have h := chipReg_of_ciaAddrIn h
  rw [← chipReg_toNat]; revert h; generalize chipReg a = o; revert o; decide

/-- The 8KB window of an address that a row masked by 0xE000 covers. -/
theorem window_of_addrIn {v a : Addr} (h : addrIn 0xE000#16 v a = true) : a.toNat / 8192 = v.toNat / 8192 := by
  have h := congrArg (fun x : Addr => (x.extractLsb' 13 3).toNat) (eq_of_beq h)
  have h1 : (a &&& 0xE000#16).extractLsb' 13 3 = a.extractLsb' 13 3 := by
    ext i hi; interval_cases i <;> simp
  rw [h1] at h
  have ha := a.isLt
  have hv := v.isLt
  simp [BitVec.extractLsb'_toNat, Nat.shiftRight_eq_div_pow] at h
  omega

end Sys2Proof
end

