-- ==== Sys2Proof/Laws/Store.lean ====
section
/-! SUPPORT. The laws of storage: a read after a write, and that every operation keeps the canonical
form (10_state.md R28, R29). -/

namespace Sys2Proof.Machine

variable {w : Nat}

@[simp] theorem Store.read_nil (a : Nat) : Store.read ([] : Store w) a = unlisted w := rfl

theorem Store.read_cons (k a : Nat) (v : BitVec w) (m : Store w) :
    Store.read ((k, v) :: m) a = if k = a then v else Store.read m a := rfl

theorem Store.wfFrom_cons {size lo k : Nat} {v : BitVec w} {m : Store w} :
    Store.wfFrom size lo ((k, v) :: m) = true ↔
      lo ≤ k ∧ k < size ∧ v ≠ unlisted w ∧ Store.wfFrom size (k + 1) m = true := by
  simp [Store.wfFrom, and_assoc]

theorem Store.wfFrom_mono {size lo lo' : Nat} (h : lo' ≤ lo) {m : Store w}
    (hm : Store.wfFrom size lo m = true) : Store.wfFrom size lo' m = true := by
  cases m with
  | nil => rfl
  | cons p m =>
    rw [Store.wfFrom_cons] at hm ⊢
    exact ⟨by omega, hm.2⟩

/-- Below the canonical form's lower bound nothing is listed. -/
theorem Store.read_below {size lo a : Nat} {m : Store w} (hm : Store.wfFrom size lo m = true)
    (ha : a < lo) : Store.read m a = unlisted w := by
  induction m generalizing lo with
  | nil => rfl
  | cons p m ih =>
    rw [Store.wfFrom_cons] at hm
    rw [Store.read_cons, if_neg (by omega), ih hm.2.2.2 (by omega)]

/-- The one law of reading and writing: a written cell reads the value, every other as before. -/
theorem Store.read_write {size lo : Nat} {m : Store w} (hm : Store.wfFrom size lo m = true)
    (a b : Nat) (v : BitVec w) :
    Store.read (Store.write m a v) b = if a = b then v else Store.read m b := by
  induction m generalizing lo with
  | nil => by_cases hv : v = unlisted w <;> simp [Store.write, hv, Store.read_cons]
  | cons p m ih =>
    obtain ⟨k, x⟩ := p
    rw [Store.wfFrom_cons] at hm
    obtain ⟨-, -, -, hm'⟩ := hm
    simp only [Store.write]
    split
    · by_cases hv : v = unlisted w
      · rw [if_pos hv]
        split
        · rw [Store.read_cons, if_neg (by omega), Store.read_below hm' (by omega), hv]
        · rfl
      · rw [if_neg hv, Store.read_cons]
    · split
      · subst a
        by_cases hv : v = unlisted w
        · rw [if_pos hv, Store.read_cons]
          split
          · rw [Store.read_below hm' (by omega), hv]
          · rfl
        · rw [if_neg hv, Store.read_cons, Store.read_cons]
          split <;> rfl
      · rw [Store.read_cons, Store.read_cons, ih hm']
        split
        · rw [if_neg (by omega)]
        · rfl

/-- A write keeps the canonical form. -/
theorem Store.write_wf {size lo a : Nat} {m : Store w} (hm : Store.wfFrom size lo m = true)
    (hlo : lo ≤ a) (ha : a < size) (v : BitVec w) : Store.wfFrom size lo (Store.write m a v) = true := by
  induction m generalizing lo with
  | nil =>
    by_cases hv : v = unlisted w
    · simp [Store.write, hv, Store.wfFrom]
    · simp [Store.write, hv, Store.wfFrom, hlo, ha]
  | cons p m ih =>
    obtain ⟨k, x⟩ := p
    have hm0 := hm
    rw [Store.wfFrom_cons] at hm
    obtain ⟨h1, h2, h3, hm'⟩ := hm
    simp only [Store.write]
    split
    · by_cases hv : v = unlisted w
      · rw [if_pos hv]; exact hm0
      · rw [if_neg hv, Store.wfFrom_cons, Store.wfFrom_cons]
        exact ⟨hlo, ha, hv, by omega, h2, h3, hm'⟩
    · split
      · by_cases hv : v = unlisted w
        · rw [if_pos hv]; exact Store.wfFrom_mono (by omega) hm'
        · rw [if_neg hv, Store.wfFrom_cons]
          subst a
          exact ⟨hlo, ha, hv, hm'⟩
      · rw [Store.wfFrom_cons]
        exact ⟨h1, h2, h3, ih hm' (by omega)⟩

/-- Storage built from contents is canonical. -/
theorem Store.ofCells_wf {n size : Nat} (hs : 2 ^ n ≤ size) (cells : List (BitVec n × BitVec w)) :
    Store.wfFrom size 0 (Store.ofCells cells) = true := by
  suffices h : ∀ m : Store w, Store.wfFrom size 0 m = true →
      Store.wfFrom size 0 (cells.foldl (fun m c => Store.write m c.1.toNat c.2) m) = true from h [] rfl
  induction cells with
  | nil => intro m hm; exact hm
  | cons c cs ih =>
    intro m hm
    exact ih _ (Store.write_wf hm (by omega) (by have := c.1.isLt; omega) _)

/-! ## RAM and colour RAM -/

/-- A byte of RAM after a write. -/
theorem Memory.read_write {m : Memory} (hm : Memory.wf m = true) (a b : Addr) (v : Byte) :
    Memory.read (Memory.write m a v) b = if a = b then v else Memory.read m b := by
  rw [Memory.read, Memory.write, Store.read_write hm]
  by_cases h : a = b
  · rw [if_pos (by rw [h]), if_pos h]
  · rw [if_neg (fun h' => h (BitVec.eq_of_toNat_eq h')), if_neg h]; rfl

/-- A write keeps RAM canonical. -/
theorem Memory.write_wf {m : Memory} (hm : Memory.wf m = true) (a : Addr) (v : Byte) :
    Memory.wf (Memory.write m a v) = true :=
  Store.write_wf hm (by omega) a.isLt v

/-- A nibble of colour RAM after a write. -/
theorem ColorRam.read_write {m : ColorRam} (hm : ColorRam.wf m = true) (i j : BitVec 10) (v : BitVec 4) :
    ColorRam.read (ColorRam.write m i v) j = if i = j then v else ColorRam.read m j := by
  rw [ColorRam.read, ColorRam.write, Store.read_write hm]
  by_cases h : i = j
  · rw [if_pos (by rw [h]), if_pos h]
  · rw [if_neg (fun h' => h (BitVec.eq_of_toNat_eq h')), if_neg h]; rfl

/-- A write keeps colour RAM canonical. -/
theorem ColorRam.write_wf {m : ColorRam} (hm : ColorRam.wf m = true) (i : BitVec 10) (v : BitVec 4) :
    ColorRam.wf (ColorRam.write m i v) = true :=
  Store.write_wf hm (by omega) i.isLt v

/-- RAM and colour RAM at reset are canonical. -/
theorem State.reset_storage_wf : Memory.wf State.reset.ram = true ∧ ColorRam.wf State.reset.color = true :=
  ⟨rfl, rfl⟩

/-- RAM and colour RAM at power-on are canonical, whatever the contents given. -/
theorem powerOnFields_storage_wf (p : Params) :
    Memory.wf (powerOnFields p).ram = true ∧ ColorRam.wf (powerOnFields p).color = true :=
  ⟨Store.ofCells_wf (by norm_num) p.ramInit, Store.ofCells_wf (by norm_num) p.colorInit⟩

end Sys2Proof.Machine
end

