-- ==== Sys2Proof/Laws/Effect.lean ====
section
/-! SUPPORT. What an instruction can do, said once: `exec_effect` names every next state `exec` can
answer, and `step_cases` every next state `step` can answer. Later proofs take these apart instead of
unfolding the meanings. -/

namespace Sys2Proof.Machine

/-- The next states of an instruction, one constructor per shape of update. -/
inductive Effect (i : Instr) (s : State) : State → Prop
  | respond (o : Output) (ho : o.isResponse = true) : Effect i s (s.emit o)
  | draw (v : Byte) : Effect i s (s.afterDraw.emit (.readByte v))
  | extRead (x : ExtBank) (a : Addr) : Effect i s ((s.emit (.extRead x a)).afterDraw.emit (.readByte s.drawValue))
  | extWrite (x : ExtBank) (a : Addr) (v : Byte) : Effect i s ((s.emit (.extWrite x a v)).emit .writeAck)
  | fault (c : FaultCode) : Effect i s (s.raiseFault c)
  | refuse (c : RefusalCode) : Effect i s (s.raiseRefusal c)
  | portDdr (v : Byte) (hi : i = .writePortDdr v ∨ i = .write 0x0000#16 v) :
      Effect i s ({ s with portDdr := v }.emit .writeAck)
  | portData (v : Byte) (hi : i = .writePortData v ∨ i = .write 0x0001#16 v) :
      Effect i s ({ s with portData := v }.emit .writeAck)
  | ram (a : Addr) (v : Byte)
      (hi : i = .writeRam a v ∨ (i = .write a v ∧ writeBank s.mapConfig a = some .ram)) :
      Effect i s ({ s with ram := Memory.write s.ram a v }.emit .writeAck)
  | color (a : Addr) (v : Byte)
      (hi : i = .writeColor a v ∨ (i = .write a v ∧ writeBank s.mapConfig a = some .color)) :
      Effect i s ({ s with color := ColorRam.write s.color (colorIndex a) (v.extractLsb' 0 4) }.emit .writeAck)
  | busByte (b : Byte) (hi : i = .setbus b) : Effect i s ({ s with busByte := b }.emit .setbusAck)
  | cart (p e g : Bool) (hi : i = .cart p e g) : Effect i s ({ s with cart := ⟨p, e, g⟩ }.emit .cartAck)
  | schedule (d : BitVec 64) (p : BitVec 4) (tag : BitVec 16) (h : Handle) (t : State)
      (hi : i = .schedule d p tag) (hp : p.toNat < s.cfg.nphase)
      (he : s.enqueue d.toNat p.toNat (.ext tag) = .ok (h, t)) : Effect i s (t.emit (.scheduled h))
  | scheduleStop (d : BitVec 64) (p : BitVec 4) (tag : BitVec 16) (t : State)
      (hi : i = .schedule d p tag) (he : s.enqueue d.toNat p.toNat (.ext tag) = .error t) : Effect i s t
  | cancel (h : Handle) (e : Event) (tag : BitVec 16) (hi : i = .cancel h) (he : s.eventOf h = some e)
      (ho : e.owner = .ext tag) : Effect i s ((s.dequeue h).emit .cancelAck)
  | advanceZero (hi : i = .advance 0#28) (hs : s.sweep = .idle) : Effect i s { s with sweep := .sweep 0#64 }
  | advance (n : BitVec 28) (hi : i = .advance n) (hn : n ≠ 0#28) (hs : s.sweep = .idle)
      (hc : s.cycle.toNat + n.toNat ≤ maxU64) :
      Effect i s { s with cycle := s.cycle + 1#64, sweep := .sweep (BitVec.ofNat 64 (n.toNat - 1)) }
  | ret (h : Handle) (rem : BitVec 64) (hi : i = .ret) (hs : s.sweep = .await h rem) :
      Effect i s (s.resumeSweep rem)
  | assert (l : Line) (src : BitVec 4) (b : Bool) (hi : i = .assert l src b) :
      Effect i s ((s.assertLine l src b).emit .assertAck)
  | ack (hi : i = .ack) : Effect i s ({ s with nmiPending := false }.emit .ackAck)
  | ciaPort (c : Chip) (p : TimerId) (v : Byte) :
      Effect i s ((afterPortWrite c p (s.setCia c ((s.cia c).setPortData p v))).emit .writeAck)
  | ciaDir (c : Chip) (p : TimerId) (v : Byte) :
      Effect i s ((afterPortWrite c p (s.setCia c ((s.cia c).setPortDir p v))).emit .writeAck)
  | ciaLow (c : Chip) (u : TimerId) (v : Byte) :
      Effect i s ((s.setCia c ((s.cia c).setLatch u (withLowByte ((s.cia c).timer u).latch v))).emit .writeAck)
  | ciaHigh (c : Chip) (u : TimerId) (v : Byte) :
      Effect i s ((s.setCia c (writeTimerHigh (s.cia c) u v)).emit .writeAck)
  | icrRead (c : Chip) :
      Effect i s ((clearIcr c s).emit (.readByte (icrByte (s.cia c).flags (s.cia c).ir)))
  | icrWrite (c : Chip) (v : Byte) : Effect i s ((writeMask c v s).emit .writeAck)
  | control (c : Chip) (u : TimerId) (v : Byte) (t : State) (hv : crRunsOnCnt v = false)
      (ht : writeControl c u v s = .ok t) : Effect i s (t.emit .writeAck)
  | controlStop (c : Chip) (u : TimerId) (v : Byte) (t : State) (hv : crRunsOnCnt v = false)
      (ht : writeControl c u v s = .error t) : Effect i s t

theorem extRead_effect {i : Instr} {x : ExtBank} {a : Addr} {s t : State} (h : extRead x a s = .next t) :
    Effect i s t := by
  cases h; exact .extRead x a

theorem extWrite_effect {i : Instr} {x : ExtBank} {a : Addr} {v : Byte} {s t : State}
    (h : extWrite x a v s = .next t) : Effect i s t := by
  cases h; exact .extWrite x a v

theorem execWriteCiaCr_effect {i : Instr} {c : Chip} {a : Addr} {v : Byte} {s t : State}
    (h : execWriteCiaCr c a v s = .next t) : Effect i s t := by
  unfold execWriteCiaCr finish at h
  split at h
  · cases h; exact .refuse _
  · rename_i hv
    split at h <;> cases h
    · exact .control c _ v _ (by simpa using hv) ‹_›
    · exact .controlStop c _ v _ (by simpa using hv) ‹_›

theorem ciaRead_effect {i : Instr} {c : Chip} {a : Addr} {s t : State} (h : ciaRead c a s = .next t) :
    Effect i s t := by
  unfold ciaRead at h
  dsimp only at h
  split at h
  · cases h; exact .draw _
  split at h
  · cases h; exact .respond _ rfl
  split at h
  · cases h; exact .respond _ rfl
  split at h
  · cases h; exact .respond _ rfl
  split at h
  · cases h; exact .refuse _
  split at h
  · cases h; exact .refuse _
  split at h
  · cases h; exact .icrRead c
  · cases h; exact .respond _ rfl

theorem ciaWrite_effect {i : Instr} {c : Chip} {a : Addr} {v : Byte} {s t : State}
    (h : ciaWrite c a v s = .next t) : Effect i s t := by
  unfold ciaWrite at h
  dsimp only at h
  split at h
  · cases h; exact .ciaPort c _ v
  split at h
  · cases h; exact .ciaDir c _ v
  split at h
  · cases h; exact .ciaLow c _ v
  split at h
  · cases h; exact .ciaHigh c _ v
  split at h
  · cases h; exact .refuse _
  split at h
  · cases h; exact .refuse _
  split at h
  · cases h; exact .icrWrite c v
  · exact execWriteCiaCr_effect h

theorem extBankRead_effect {i : Instr} {x : ExtBank} {a : Addr} {s t : State}
    (h : extBankRead x a s = .next t) : Effect i s t := by
  cases x <;> simp only [extBankRead] at h
  all_goals first | exact extRead_effect h | (split at h <;> exact extRead_effect h)

theorem extBankWrite_effect {i : Instr} {x : ExtBank} {a : Addr} {v : Byte} {s t : State}
    (h : extBankWrite x a v s = .next t) : Effect i s t := by
  cases x <;> exact extWrite_effect h

theorem execRead_effect {i : Instr} {a : Addr} {s t : State} (h : execRead a s = .next t) : Effect i s t := by
  unfold execRead at h
  split at h
  · cases h; exact .respond _ rfl
  · cases h; exact .respond _ rfl
  · cases h; exact .respond _ rfl
  · cases h; exact .respond _ rfl
  · split at h
    · cases h; exact .respond _ rfl
    · cases h; exact .draw _
  · cases h; exact .respond _ rfl
  · cases h; exact .respond _ rfl
  · exact ciaRead_effect h
  · exact ciaRead_effect h
  · exact extBankRead_effect h
  · cases h; exact .fault _

theorem writeBank_port {c : MapConfig} {a : Addr} (h : writeBank c a = some .port) :
    a = 0x0000#16 ∨ a = 0x0001#16 := by
  unfold writeBank entryBank at h
  split at h
  · rename_i hp; simpa [isPortAddr] using hp
  · split at h
    · split at h <;> simp_all
    · split at h
      · split at h <;> simp_all
      · cases h
      · cases h
    · cases h

theorem execWrite_effect {a : Addr} {v : Byte} {s t : State} (h : execWrite a v s = .next t) :
    Effect (.write a v) s t := by
  unfold execWrite at h
  split at h
  · cases h; exact .ram a v (.inr ⟨rfl, ‹_›⟩)
  · cases h; exact .fault _
  · cases h; exact .fault _
  · cases h; exact .fault _
  · rename_i hb
    split at h
    · cases h; subst a; exact .portDdr v (.inr rfl)
    · cases h; obtain rfl : a = 0x0001#16 := (writeBank_port hb).resolve_left ‹_›; exact .portData v (.inr rfl)
  · cases h; exact .color a v (.inr ⟨rfl, ‹_›⟩)
  · cases h; exact .respond _ rfl
  · exact ciaWrite_effect h
  · exact ciaWrite_effect h
  · exact extBankWrite_effect h
  · cases h; exact .fault _

theorem execSchedule_effect {d : BitVec 64} {p : BitVec 4} {tag : BitVec 16} {s t : State}
    (h : execSchedule d p tag s = .next t) : Effect (.schedule d p tag) s t := by
  unfold execSchedule at h
  split at h
  · cases h; exact .fault _
  split at h
  · cases h; exact .fault _
  split at h
  · cases h; exact .schedule d p tag _ _ rfl (by omega) ‹_›
  · cases h; exact .scheduleStop d p tag _ rfl ‹_›

theorem execCancel_effect {k : Handle} {s t : State} (h : execCancel k s = .next t) :
    Effect (.cancel k) s t := by
  unfold execCancel at h
  split at h
  · cases h; exact .fault _
  split at h
  · cases h; exact .respond _ rfl
  split at h
  · cases h; exact .fault _
  · cases h; exact .cancel k _ _ rfl ‹_› ‹_›

theorem execAdvance_effect {n : BitVec 28} {s t : State} (h : execAdvance n s = .next t) :
    Effect (.advance n) s t := by
  unfold execAdvance at h
  split at h
  · cases h; exact .fault _
  split at h
  · cases h; subst n; exact .advanceZero rfl (by simp_all)
  split at h
  · cases h; exact .fault _
  · cases h; exact .advance n rfl ‹_› (by simp_all) (by omega)

theorem execReturn_effect {s t : State} (h : execReturn s = .next t) : Effect .ret s t := by
  unfold execReturn at h
  split at h <;> cases h
  · exact .ret _ _ rfl ‹_›
  · exact .fault _
  · exact .fault _

theorem execSample_effect {i : Instr} {l : Line} {s t : State} (h : execSample l s = .next t) :
    Effect i s t := by
  cases l <;> (cases h; exact .respond _ rfl)

/-- Every next state `exec` answers is one of the shapes of `Effect`. -/
theorem exec_effect {i : Instr} {s t : State} (h : exec i s = .next t) : Effect i s t := by
  cases i
  case read a => exact execRead_effect h
  case write a v => exact execWrite_effect h
  case schedule d p tag => exact execSchedule_effect h
  case cancel k => exact execCancel_effect h
  case cycle => cases h; exact .respond _ rfl
  case advance n => exact execAdvance_effect h
  case ret => exact execReturn_effect h
  case assert l src b => cases h; exact .assert l src b rfl
  case sample l => exact execSample_effect h
  case ack => cases h; exact .ack rfl
  case setbus b => cases h; exact .busByte b rfl
  case cart p e g => cases h; exact .cart p e g rfl
  case reservedOp0 r => cases h; exact .fault _
  case reservedOpD r => cases h; exact .fault _
  case reservedOpE r => cases h; exact .fault _
  case reservedOpF r => cases h; exact .fault _
  case readPortDdr => cases h; exact .respond _ rfl
  case readPortData => cases h; exact .draw _
  case writePortDdr v => cases h; exact .portDdr v (.inl rfl)
  case writePortData v => cases h; exact .portData v (.inl rfl)
  case readRam a => cases h; exact .respond _ rfl
  case writeRam a v => cases h; exact .ram a v (.inl rfl)
  case readBasic a => cases h; exact .respond _ rfl
  case readKernal a => cases h; exact .respond _ rfl
  case readChar a => cases h; exact .respond _ rfl
  case writeRom a v => cases h; exact .fault _
  case readColor a => cases h; exact .respond _ rfl
  case writeColor a v => cases h; exact .color a v (.inl rfl)
  case readOpen a => cases h; exact .respond _ rfl
  case writeOpen a v => cases h; exact .respond _ rfl
  case readVic a => exact extRead_effect h
  case writeVic a v => exact extWrite_effect h
  case readSid a => exact extRead_effect h
  case writeSid a v => exact extWrite_effect h
  case readRoml a => exact extRead_effect h
  case writeRoml a v => exact extWrite_effect h
  case readRomhA a => exact extRead_effect h
  case readRomhE a => exact extRead_effect h
  case writeRomhE a v => exact extWrite_effect h
  case readIo1 a => exact extRead_effect h
  case writeIo1 a v => exact extWrite_effect h
  case readIo2 a => exact extRead_effect h
  case writeIo2 a v => exact extWrite_effect h
  case readCiaPr c a => cases h; exact .draw _
  case writeCiaPr c a v => cases h; exact .ciaPort c _ v
  case readCiaDdr c a => cases h; exact .respond _ rfl
  case writeCiaDdr c a v => cases h; exact .ciaDir c _ v
  case readCiaTlo c a => cases h; exact .respond _ rfl
  case writeCiaTlo c a v => cases h; exact .ciaLow c _ v
  case readCiaThi c a => cases h; exact .respond _ rfl
  case writeCiaThi c a v => cases h; exact .ciaHigh c _ v
  case readCiaTod c a => cases h; exact .refuse _
  case writeCiaTod c a v => cases h; exact .refuse _
  case readCiaSdr c a => cases h; exact .refuse _
  case writeCiaSdr c a v => cases h; exact .refuse _
  case readCiaIcr c a => cases h; exact .icrRead c
  case writeCiaIcr c a v => cases h; exact .icrWrite c v
  case readCiaCr c a => cases h; exact .respond _ rfl
  case writeCiaCr c a v => exact execWriteCiaCr_effect h

end Sys2Proof.Machine
end

