-- ==== Sys2Proof/Laws/Step.lean ====
section
/-! SUPPORT. What `step` answers in each kind of state, and where its next states come from. -/

namespace Sys2Proof.Machine

theorem State.accepts_iff (s : State) :
    s.accepts = true ↔ s.fault = none ∧ s.refusal = none ∧ ∀ rem, s.sweep ≠ .sweep rem := by
  simp only [State.accepts, State.stopped, Bool.and_eq_true, Bool.not_eq_true', Bool.or_eq_false_iff,
    Option.isSome_eq_false_iff, Option.isNone_iff_eq_none]
  cases s.sweep <;> simp

/-- In a state that accepts a command, a step is what the command port gives (30_encoding.md R110). -/
theorem step_of_accepts {s : State} (h : s.accepts = true) :
    step s = match s.incoming with
      | .wait => .next s
      | .illegal t => .next t
      | .run i t => exec i t := by
  obtain ⟨h1, h2, h3⟩ := (State.accepts_iff s).1 h
  unfold step
  rw [h1, h2]
  cases hs : s.sweep with
  | sweep rem => exact absurd hs (h3 rem)
  | idle => rfl
  | await k rem => rfl

/-- In `SWEEP`, a step is one sweep action (40_scheduler.md R147). -/
theorem step_of_sweep {s : State} {rem : BitVec 64} (h : s.stopped = false) (hs : s.sweep = .sweep rem) :
    step s = .next (sweepStep rem s) := by
  obtain ⟨h1, h2⟩ := State.stopped_eq_false.1 h
  unfold step
  rw [h1, h2, hs]

/-- Where a next state of a step comes from: a sweep action, a core that waits, an illegal command, or the
row reached by a decoded command. -/
theorem step_cases {s t : State} (h : step s = .next t) :
    s.stopped = false ∧
    ((∃ rem, s.sweep = .sweep rem ∧ t = sweepStep rem s) ∨
     ((∀ rem, s.sweep ≠ .sweep rem) ∧
      (t = s ∨
       (∃ f, fetch s.commands = some f ∧ t = illegalCommand { s with commands := f.rest }) ∨
       (∃ f i, fetch s.commands = some f ∧ decodeWords f.w f.x0 f.x1 = .ok i ∧
         exec (target s.mapConfig i) { s with commands := f.rest } = .next t)))) := by
  have hst : s.stopped = false := by
    rw [State.stopped_eq_false]
    unfold step at h
    split at h
    · cases h
    · cases h
    · exact ⟨‹_›, ‹_›⟩
  refine ⟨hst, ?_⟩
  by_cases hsw : ∃ rem, s.sweep = .sweep rem
  · obtain ⟨rem, hsw⟩ := hsw
    rw [step_of_sweep hst hsw] at h
    cases h
    exact .inl ⟨rem, hsw, rfl⟩
  · have hns : ∀ rem, s.sweep ≠ .sweep rem := fun rem hc => hsw ⟨rem, hc⟩
    obtain ⟨hf, hr⟩ := State.stopped_eq_false.1 hst
    rw [step_of_accepts ((State.accepts_iff s).2 ⟨hf, hr, hns⟩)] at h
    refine .inr ⟨hns, ?_⟩
    unfold State.incoming at h
    cases hfe : fetch s.commands with
    | none => rw [hfe] at h; cases h; exact .inl rfl
    | some f =>
      rw [hfe] at h
      cases hd : decodeWords f.w f.x0 f.x1 with
      | error e => simp only [hd] at h; cases h; exact .inr (.inl ⟨f, rfl, rfl⟩)
      | ok i => simp only [hd] at h; exact .inr (.inr ⟨f, i, rfl, hd, h⟩)

/-! ## The rest of the state through the command port -/

@[simp] theorem State.mapConfig_commands (s : State) (ws : List Word) :
    ({ s with commands := ws } : State).mapConfig = s.mapConfig := rfl

end Sys2Proof.Machine
end

