-- ==== Sys2Proof/Laws/Timer.lean ====
section
/-! SUPPORT. What queueing, reconciling, expiring and ticking can do, said once for each (40_scheduler.md
R140; 42_timer.md R243 to R249), and the frame that all of them keep. -/

namespace Sys2Proof.Machine

/-! ## Queueing -/

/-- `Enqueue` stops on an overflow, or appends one event with the next handle (40_scheduler.md R140). -/
theorem enqueue_cases (s : State) (d p : Nat) (o : Owner) :
    (maxU64 < s.cycle.toNat + d ∧ s.enqueue d p o = .error (s.raiseFault .cycleOverflow)) ∨
    (s.cycle.toNat + d ≤ maxU64 ∧ s.nextSeq.toNat = maxU64 ∧
      s.enqueue d p o = .error (s.raiseFault .seqOverflow)) ∨
    (s.cycle.toNat + d ≤ maxU64 ∧ s.nextSeq.toNat ≠ maxU64 ∧
      s.enqueue d p o = .ok (s.nextSeq, { s with
        queue := s.queue ++ [⟨BitVec.ofNat 64 (s.cycle.toNat + d), p, s.nextSeq, o⟩]
        nextSeq := s.nextSeq + 1#64 })) := by
  unfold State.enqueue
  split
  · exact .inl ⟨by omega, rfl⟩
  · split
    · exact .inr (.inl ⟨by omega, ‹_›, rfl⟩)
    · exact .inr (.inr ⟨by omega, ‹_›, rfl⟩)

/-- The next handle does not wrap when `Enqueue` succeeds. -/
theorem nextSeq_succ {h : Handle} (hne : h.toNat ≠ maxU64) : (h + 1#64).toNat = h.toNat + 1 := by
  have := h.isLt
  rw [BitVec.toNat_add, BitVec.toNat_ofNat]
  unfold maxU64 at hne
  omega

/-! ## Reconciling (42_timer.md R243) -/

theorem reconcile_keep_clocked {c : Chip} {u : TimerId} {s : State} {h : Handle}
    (hc : clocked (s.cia c) u = true) (ht : ((s.cia c).timer u).tick = some h) : reconcile c u s = .ok s := by
  simp only [reconcile, hc, ht]

theorem reconcile_keep_idle {c : Chip} {u : TimerId} {s : State}
    (hc : clocked (s.cia c) u = false) (ht : ((s.cia c).timer u).tick = none) : reconcile c u s = .ok s := by
  simp only [reconcile, hc, ht]

theorem reconcile_stop {c : Chip} {u : TimerId} {s : State} {h : Handle}
    (hc : clocked (s.cia c) u = false) (ht : ((s.cia c).timer u).tick = some h) :
    reconcile c u s = .ok ((s.dequeue h).setTick c u none) := by
  simp only [reconcile, hc, ht]

theorem reconcile_start {c : Chip} {u : TimerId} {s : State}
    (hc : clocked (s.cia c) u = true) (ht : ((s.cia c).timer u).tick = none) :
    reconcile c u s =
      match s.enqueue (timerRate s.cfg c) s.cfg.timerPhase (.tick c u) with
      | .ok (h, t) => .ok (t.setTick c u (some h))
      | .error t => .error t := by
  simp only [reconcile, hc, ht] <;> rfl

/-- A unit that is not clocked never makes `Reconcile` stop. -/
theorem reconcile_idle_ok {c : Chip} {u : TimerId} {s : State} (hc : clocked (s.cia c) u = false) :
    ∃ t, reconcile c u s = .ok t := by
  cases ht : ((s.cia c).timer u).tick with
  | none => exact ⟨s, reconcile_keep_idle hc ht⟩
  | some h => exact ⟨_, reconcile_stop hc ht⟩

/-! ## The frame of a chip's counting -/

/-- What counting on chip `c` leaves: everything but the queue and its next handle, the counters, pending
ticks, control registers, flags and output of that chip, the interrupt levels, a fault and the output. -/
structure CountFrame (c : Chip) (s t : State) : Prop where
  cfg : t.cfg = s.cfg
  cycle : t.cycle = s.cycle
  sweep : t.sweep = s.sweep
  ram : t.ram = s.ram
  color : t.color = s.color
  busByte : t.busByte = s.busByte
  portDdr : t.portDdr = s.portDdr
  portData : t.portData = s.portData
  cart : t.cart = s.cart
  side : t.side = s.side
  refusal : t.refusal = s.refusal
  commands : t.commands = s.commands
  oracle : t.oracle = s.oracle
  drawn : t.drawn = s.drawn
  other : ∀ k, k ≠ c → t.cia k = s.cia k
  pra : (t.cia c).pra = (s.cia c).pra
  prb : (t.cia c).prb = (s.cia c).prb
  ddra : (t.cia c).ddra = (s.cia c).ddra
  ddrb : (t.cia c).ddrb = (s.cia c).ddrb
  mask : (t.cia c).mask = (s.cia c).mask
  latch : ∀ u, ((t.cia c).timer u).latch = ((s.cia c).timer u).latch

theorem CountFrame.refl (c : Chip) (s : State) : CountFrame c s s := by
  constructor <;> intros <;> rfl

theorem CountFrame.trans {c : Chip} {s t r : State} (h : CountFrame c s t) (h' : CountFrame c t r) :
    CountFrame c s r where
  cfg := h'.cfg.trans h.cfg
  cycle := h'.cycle.trans h.cycle
  sweep := h'.sweep.trans h.sweep
  ram := h'.ram.trans h.ram
  color := h'.color.trans h.color
  busByte := h'.busByte.trans h.busByte
  portDdr := h'.portDdr.trans h.portDdr
  portData := h'.portData.trans h.portData
  cart := h'.cart.trans h.cart
  side := h'.side.trans h.side
  refusal := h'.refusal.trans h.refusal
  commands := h'.commands.trans h.commands
  oracle := h'.oracle.trans h.oracle
  drawn := h'.drawn.trans h.drawn
  other k hk := (h'.other k hk).trans (h.other k hk)
  pra := h'.pra.trans h.pra
  prb := h'.prb.trans h.prb
  ddra := h'.ddra.trans h.ddra
  ddrb := h'.ddrb.trans h.ddrb
  mask := h'.mask.trans h.mask
  latch u := (h'.latch u).trans (h.latch u)

theorem CountFrame.mapConfig {c : Chip} {s t : State} (h : CountFrame c s t) : t.mapConfig = s.mapConfig := by
  simp only [State.mapConfig, h.portDdr, h.portData, h.cart, h.cfg]

theorem CountFrame.setCia {c : Chip} {s : State} {x : Cia} (h1 : x.pra = (s.cia c).pra)
    (h2 : x.prb = (s.cia c).prb) (h3 : x.ddra = (s.cia c).ddra) (h4 : x.ddrb = (s.cia c).ddrb)
    (h5 : x.mask = (s.cia c).mask) (h6 : ∀ u, (x.timer u).latch = ((s.cia c).timer u).latch) :
    CountFrame c s (s.setCia c x) := by
  constructor <;> simp [h1, h2, h3, h4, h5, h6]
  intro k hk
  exact State.cia_setCia_ne s c k x hk

theorem CountFrame.raiseInterrupt (c : Chip) (s : State) (b : Bool) : CountFrame c s (s.raiseInterrupt c b) := by
  constructor <;> simp

theorem CountFrame.raiseFault (c : Chip) (s : State) (f : FaultCode) : CountFrame c s (s.raiseFault f) := by
  constructor <;> simp

theorem CountFrame.dequeue (c : Chip) (s : State) (h : Handle) : CountFrame c s (s.dequeue h) := by
  constructor <;> simp

theorem CountFrame.queue (c : Chip) (s : State) (q : List Event) (n : Handle) :
    CountFrame c s { s with queue := q, nextSeq := n } := by
  constructor <;> intros <;> rfl

theorem CountFrame.setTick (c : Chip) (u : TimerId) (s : State) (h : Option Handle) :
    CountFrame c s (s.setTick c u h) := by
  unfold State.setTick Cia.setTick
  refine CountFrame.setCia (by simp) (by simp) (by simp) (by simp) (by simp) ?_
  intro v
  rw [Cia.timer_setTimer_if]
  split <;> simp [*]

theorem CountFrame.setCounter (c : Chip) (u : TimerId) (s : State) (n : BitVec 16) :
    CountFrame c s (s.setCia c ((s.cia c).setCounter u n)) := by
  unfold Cia.setCounter
  refine CountFrame.setCia (by simp) (by simp) (by simp) (by simp) (by simp) ?_
  intro v
  rw [Cia.timer_setTimer_if]
  split <;> simp [*]

/-- The state a rule leaves, stopped or not, keeps the frame. -/
def KeepsFrame (c : Chip) (s : State) (r : Except State State) : Prop := CountFrame c s (settled r)

theorem reconcile_frame (c : Chip) (u : TimerId) (s : State) : KeepsFrame c s (reconcile c u s) := by
  unfold KeepsFrame
  cases hc : clocked (s.cia c) u <;> cases ht : ((s.cia c).timer u).tick
  · rw [reconcile_keep_idle hc ht]; exact .refl c s
  · rw [reconcile_stop hc ht]; exact (CountFrame.dequeue c s _).trans (.setTick c u _ _)
  · rw [reconcile_start hc ht]
    rcases enqueue_cases s (timerRate s.cfg c) s.cfg.timerPhase (.tick c u) with ⟨_, h⟩ | ⟨_, _, h⟩ | ⟨_, _, h⟩ <;>
      rw [h]
    · exact .raiseFault c s _
    · exact .raiseFault c s _
    · exact (CountFrame.queue c s _ _).trans (.setTick c u _ _)
  · rw [reconcile_keep_clocked hc ht]; exact .refl c s

/-! ## Expiring and ticking (42_timer.md R246 to R249) -/

theorem clocked_setControl_stopped (x : Cia) (u : TimerId) (v : Byte) :
    clocked (x.setControl u (crStopped v)) u = false := by
  have h : crStart (crStopped v) = false := by
    simp [crStart, crStopped]
  cases u <;> simp [clocked, Cia.setControl, h]

/-- An expiry never stops the core before its cascade: its `Reconcile` only removes a tick. -/
theorem expireReload_ok (c : Chip) (u : TimerId) (s : State) : ∃ t, expireReload c u s = .ok t := by
  unfold expireReload
  dsimp only
  split
  · exact reconcile_idle_ok (by simp [clocked_setControl_stopped])
  · exact ⟨_, rfl⟩

theorem expireUnit_ok (c : Chip) (u : TimerId) (s : State) : ∃ t, expireUnit c u s = .ok t := by
  obtain ⟨t, ht⟩ := expireReload_ok c u (expireFlag c u s)
  exact ⟨_, by rw [expireUnit, ht]⟩

theorem tickB_ok (c : Chip) (s : State) : ∃ t, tickB c s = .ok t := by
  unfold tickB
  split
  · exact expireUnit_ok c .b s
  · exact ⟨_, rfl⟩

theorem cascade_ok (c : Chip) (s : State) : ∃ t, cascade c s = .ok t := by
  unfold cascade
  split
  · exact tickB_ok c s
  · exact ⟨_, rfl⟩

/-- A tick never stops the core. -/
theorem tick_ok (c : Chip) (u : TimerId) (s : State) : ∃ t, tick c u s = .ok t := by
  cases u
  · simp only [tick, tickA]
    split
    · obtain ⟨t, ht⟩ := expireUnit_ok c .a s
      rw [ht]
      exact cascade_ok c t
    · exact ⟨_, rfl⟩
  · exact tickB_ok c s

theorem expireFlag_frame (c : Chip) (u : TimerId) (s : State) : CountFrame c s (expireFlag c u s) :=
  CountFrame.setCia rfl rfl rfl rfl rfl fun v => by cases v <;> rfl

theorem expireReload_frame {c : Chip} {u : TimerId} {s t : State} (h : expireReload c u s = .ok t) :
    CountFrame c s t := by
  unfold expireReload at h
  dsimp only at h
  split at h
  · refine CountFrame.trans (t := s.setCia c _) (CountFrame.setCia ?_ ?_ ?_ ?_ ?_ ?_) (h ▸ reconcile_frame c u _)
    · simp [Cia.setCounter]
    · simp [Cia.setCounter]
    · simp [Cia.setCounter]
    · simp [Cia.setCounter]
    · simp [Cia.setCounter]
    · intro v
      rw [Cia.timer_setControl, Cia.setCounter, Cia.timer_setTimer_if]
      split <;> simp [*]
  · cases h
    exact CountFrame.setCounter c u s _

theorem expireInterrupt_frame (c : Chip) (u : TimerId) (s : State) : CountFrame c s (expireInterrupt c u s) := by
  unfold expireInterrupt
  dsimp only
  split
  · exact CountFrame.trans (t := s.setCia c { s.cia c with ir := true }) (CountFrame.setCia rfl rfl rfl rfl rfl fun v => by cases v <;> rfl) (.raiseInterrupt c _ _)
  · exact .refl c s

theorem expireUnit_frame {c : Chip} {u : TimerId} {s t : State} (h : expireUnit c u s = .ok t) :
    CountFrame c s t := by
  obtain ⟨r, hr⟩ := expireReload_ok c u (expireFlag c u s)
  rw [expireUnit, hr] at h
  cases h
  exact ((expireFlag_frame c u s).trans (expireReload_frame hr)).trans (expireInterrupt_frame c u r)

theorem tickB_frame {c : Chip} {s t : State} (h : tickB c s = .ok t) : CountFrame c s t := by
  unfold tickB at h
  split at h
  · exact expireUnit_frame h
  · cases h; exact CountFrame.setCounter c .b s _

theorem tick_frame {c : Chip} {u : TimerId} {s t : State} (h : tick c u s = .ok t) : CountFrame c s t := by
  cases u
  · simp only [tick, tickA] at h
    split at h
    · obtain ⟨r, hr⟩ := expireUnit_ok c .a s
      rw [hr] at h
      refine (expireUnit_frame hr).trans ?_
      simp only [cascade] at h
      split at h
      · exact tickB_frame h
      · cases h; exact .refl c _
    · cases h; exact CountFrame.setCounter c .a s _
  · exact tickB_frame h

/-- The firing of a tick event keeps the frame, whether it stops the core or not. -/
theorem fireTick_frame (c : Chip) (u : TimerId) (s : State) : CountFrame c s (settled (fireTick c u s)) := by
  obtain ⟨t, ht⟩ := tick_ok c u (s.setTick c u none)
  rw [fireTick, ht]
  exact ((CountFrame.setTick c u s none).trans (tick_frame ht)).trans (reconcile_frame c u t)

end Sys2Proof.Machine
end

