-- ==== Sys2Proof/Laws/Queue.lean ====
section
/-! SUPPORT. The event queue: the firing order (40_scheduler.md R142), the least due event, removal by
handle (R141), and what a sweep step can do (R147 to R151). -/

namespace Sys2Proof.Machine

/-! ## The firing order -/

theorem eventLess_iff (e f : Event) :
    eventLess e f = true ↔ e.target.toNat < f.target.toNat ∨
      (e.target.toNat = f.target.toNat ∧ (e.phase < f.phase ∨ (e.phase = f.phase ∧ e.seq.toNat < f.seq.toNat))) := by
  simp [eventLess, BitVec.lt_def, BitVec.toNat_eq]

theorem eventLess_false_iff (e f : Event) :
    eventLess e f = false ↔ f.target.toNat < e.target.toNat ∨
      (e.target.toNat = f.target.toNat ∧ (f.phase < e.phase ∨ (e.phase = f.phase ∧ f.seq.toNat ≤ e.seq.toNat))) := by
  rw [← Bool.not_eq_true, eventLess_iff]
  omega

theorem leastEvent_eq_none {l : List Event} : leastEvent l = none ↔ l = [] := by
  cases l with
  | nil => simp [leastEvent]
  | cons e es =>
    simp only [leastEvent, reduceCtorEq, iff_false]
    split
    · simp
    · split <;> simp

theorem leastEvent_mem {l : List Event} {e : Event} (h : leastEvent l = some e) : e ∈ l := by
  induction l with
  | nil => cases h
  | cons x xs ih =>
    simp only [leastEvent] at h
    split at h
    · cases h; exact List.mem_cons_self
    · split at h
      · cases h; exact List.mem_cons_of_mem _ (ih ‹_›)
      · cases h; exact List.mem_cons_self

/-- No event of a list is before its least one. -/
theorem leastEvent_least {l : List Event} {e : Event} (h : leastEvent l = some e) :
    ∀ f ∈ l, eventLess f e = false := by
  induction l generalizing e with
  | nil => cases h
  | cons x xs ih =>
    intro f hf
    simp only [leastEvent] at h
    split at h
    · rename_i hn
      rw [leastEvent_eq_none] at hn
      cases h; subst hn
      obtain rfl : f = x := by simpa using hf
      rw [eventLess_false_iff]; omega
    · rename_i g hg
      rcases List.mem_cons.1 hf with rfl | hf
      · split at h <;> cases h
        · rename_i hgx; rw [eventLess_iff] at hgx; rw [eventLess_false_iff]; omega
        · rw [eventLess_false_iff]; omega
      · have := ih hg f hf
        split at h <;> cases h
        · exact this
        · rename_i hgx
          rw [Bool.not_eq_true, eventLess_false_iff] at hgx
          rw [eventLess_false_iff] at this ⊢
          omega

theorem seq_inj_of_pairwise {q : List Event} (hp : q.Pairwise (fun e f => e.seq < f.seq)) :
    ∀ e ∈ q, ∀ f ∈ q, e.seq = f.seq → e = f := by
  induction q with
  | nil => intro e he; cases he
  | cons x xs ih =>
    rw [List.pairwise_cons] at hp
    intro e he f hf hs
    rw [BitVec.toNat_eq] at hs
    rcases List.mem_cons.1 he with h1 | h1 <;> rcases List.mem_cons.1 hf with h2 | h2
    · rw [h1, h2]
    · have := hp.1 f h2; rw [BitVec.lt_def] at this; subst h1; omega
    · have := hp.1 e h1; rw [BitVec.lt_def] at this; subst h2; omega
    · exact ih hp.2 e h1 f h2 (BitVec.eq_of_toNat_eq hs)

/-- Events in a queue ordered by handle are told apart by their handles. -/
theorem QueueOrdered.seq_inj {s : State} (h : QueueOrdered s) {e f : Event} (he : e ∈ s.queue)
    (hf : f ∈ s.queue) (hs : e.seq = f.seq) : e = f :=
  seq_inj_of_pairwise h.1 e he f hf hs

/-! ## Removal by handle -/

theorem mem_dequeue {s : State} {h : Handle} {e : Event} : e ∈ (s.dequeue h).queue ↔ e ∈ s.queue ∧ e.seq ≠ h := by
  simp [State.dequeue]

theorem QueueOrdered.dequeue {s : State} (hq : QueueOrdered s) (h : Handle) : QueueOrdered (s.dequeue h) :=
  ⟨hq.1.filter _, fun e he => hq.2 e (mem_dequeue.1 he).1⟩

/-- Appending an event with the next handle keeps the queue ordered. -/
theorem QueueOrdered.append {s : State} (hq : QueueOrdered s) (hn : s.nextSeq.toNat ≠ maxU64)
    (at' : Cycle) (p : Nat) (o : Owner) :
    QueueOrdered { s with queue := s.queue ++ [⟨at', p, s.nextSeq, o⟩], nextSeq := s.nextSeq + 1#64 } := by
  have hs := nextSeq_succ hn
  constructor
  · simp only [List.pairwise_append, List.pairwise_cons, List.Pairwise.nil, List.mem_singleton]
    exact ⟨hq.1, ⟨by simp, trivial⟩, fun e he f hf => by subst hf; exact hq.2 e he⟩
  · intro e he
    rw [BitVec.lt_def]
    simp only at he ⊢
    rw [hs]
    rcases List.mem_append.1 he with he | he
    · have := hq.2 e he
      rw [BitVec.lt_def] at this
      omega
    · obtain rfl := List.mem_singleton.1 he
      simp

/-- The events due now are those of the queue at or below the cycle (40_scheduler.md R147). -/
theorem mem_due {s : State} {e : Event} : e ∈ s.due ↔ e ∈ s.queue ∧ e.target.toNat ≤ s.cycle.toNat := by
  simp [State.due, BitVec.le_def]

/-- The live event with a handle (R144). -/
theorem eventOf_eq_none {s : State} {h : Handle} : s.eventOf h = none ↔ ∀ e ∈ s.queue, e.seq ≠ h := by
  simp [State.eventOf, List.find?_eq_none]

theorem eventOf_some {s : State} {h : Handle} {e : Event} (he : s.eventOf h = some e) :
    e ∈ s.queue ∧ e.seq = h :=
  ⟨List.mem_of_find?_eq_some he, by simpa using List.find?_some he⟩

/-! ## The sweep step (R147) -/

/-- What a sweep step does: it ends the sweep at this cycle value, fires an external event, or fires a tick. -/
theorem sweepStep_cases (rem : BitVec 64) (s : State) :
    ((∀ e ∈ s.queue, s.cycle.toNat < e.target.toNat) ∧ sweepStep rem s = endSweep rem s) ∨
    ∃ e ∈ s.queue, e.target.toNat ≤ s.cycle.toNat ∧
      (∀ f ∈ s.queue, f.target.toNat ≤ s.cycle.toNat → eventLess f e = false) ∧
      ((∃ tag, e.owner = .ext tag ∧
          sweepStep rem s = { (s.dequeue e.seq).emit (.fire e.seq tag) with sweep := .await e.seq rem }) ∨
        (∃ c u, e.owner = .tick c u ∧ sweepStep rem s = settled (fireTick c u (s.dequeue e.seq)))) := by
  unfold sweepStep
  cases hl : leastEvent s.due with
  | none =>
    left
    rw [leastEvent_eq_none] at hl
    refine ⟨fun e he => ?_, rfl⟩
    by_contra hc
    have : e ∈ s.due := mem_due.2 ⟨he, by omega⟩
    rw [hl] at this
    cases this
  | some e =>
    right
    have hm := mem_due.1 (leastEvent_mem hl)
    refine ⟨e, hm.1, hm.2, fun f hf hft => leastEvent_least hl f (mem_due.2 ⟨hf, hft⟩), ?_⟩
    simp only [fireEvent]
    cases ho : e.owner with
    | ext tag => exact .inl ⟨tag, rfl, rfl⟩
    | tick c u => exact .inr ⟨c, u, rfl, rfl⟩

end Sys2Proof.Machine
end

