-- ==== Sys2Proof/Laws/Expiry.lean ====
section
/-! SUPPORT. An expiry as one update of the state, the cascade, and what a tick leaves that
`CountFrame` does not name (42_timer.md R246 to R249). -/

namespace Sys2Proof.Machine

/-! ## Control register tests as numbers -/

theorem crbInmode_eq_iff (crb : Byte) (k : BitVec 2) : crbInmode crb = k ↔ crb.toNat / 32 % 4 = k.toNat := by
  rw [crbInmode, BitVec.toNat_eq]
  simp [BitVec.extractLsb'_toNat, Nat.shiftRight_eq_div_pow]

theorem cascaded_iff (x : Cia) : cascaded x = true ↔ x.crb.getLsbD 0 = true ∧ x.crb.toNat / 32 % 4 = 2 := by
  rw [cascaded, crStart, Bool.and_eq_true, beq_iff_eq, crbInmode_eq_iff]; rfl

theorem clocked_iff (x : Cia) (u : TimerId) :
    clocked x u = true ↔ (x.control u).getLsbD 0 = true ∧ (u = .b → x.crb.toNat / 32 % 4 = 0) := by
  cases u
  · simp [clocked, crStart, Cia.control]
  · rw [clocked, crStart, Bool.and_eq_true, beq_iff_eq, crbInmode_eq_iff]
    simp [Cia.control]

/-- A stored control register is clocked as the written value is: LOAD does not count (R240). -/
theorem clocked_setControl_stored (x : Cia) (u : TimerId) (v : Byte) :
    clocked (x.setControl u (crStored v)) u = true ↔ v.getLsbD 0 = true ∧ (u = .b → v.toNat / 32 % 4 = 0) := by
  cases u
  · simp [clocked, Cia.setControl, crStart, crStored]
  · have h : crbInmode (crStored v) = crbInmode v := by
      unfold crbInmode crStored; ext i hi; interval_cases i <;> simp
    have h0 : crStart (crStored v) = v.getLsbD 0 := by simp [crStart, crStored]
    simp only [clocked, Cia.setControl, h, h0, Bool.and_eq_true, beq_iff_eq, crbInmode_eq_iff]
    simp

/-! ## An expiry, and the cascade -/

/-- Step (b) after step (a), as one update (R248 (a), (b)). -/
theorem expireReload_eq (s : State) (c : Chip) (u : TimerId) :
    let x := { s.cia c with flags := setFlag (s.cia c).flags u }
    let oneShot := ((s.cia c).control u).getLsbD 3 = true
    let x' := if oneShot then
        (x.setTimer u { (x.timer u) with counter := 0#16, tick := none }).setControl u (crStopped ((s.cia c).control u))
      else x.loadCounter u
    let q := match ((s.cia c).timer u).tick with
      | some h => if oneShot then s.queue.filter (fun e => decide (e.seq ≠ h)) else s.queue
      | none => s.queue
    expireReload c u (expireFlag c u s) = .ok { s.setCia c x' with queue := q } := by
  intro x oneShot x' q
  have hx : (expireFlag c u s).cia c = x := by simp [expireFlag, x]
  have hc : x.control u = (s.cia c).control u := by cases u <;> rfl
  have hk : (x.timer u).tick = ((s.cia c).timer u).tick := by cases u <;> rfl
  have hs : ∀ y, (expireFlag c u s).setCia c y = s.setCia c y := fun y => by simp [expireFlag]
  unfold expireReload
  rw [hx]
  dsimp only
  rw [hc, hs, hs]
  by_cases ho : oneShot
  · rw [show crOneShot ((s.cia c).control u) = true from ho, if_pos rfl]
    have hx' : x' = _ := if_pos ho
    cases ht : ((s.cia c).timer u).tick with
    | none =>
      rw [reconcile_keep_idle (by simp [clocked_setControl_stopped])
        (by rw [State.cia_setCia, Cia.timer_setControl]; simp [Cia.setCounter, hk, ht])]
      rw [hx', show q = s.queue by simp only [q, ht], show (none : Option Handle) = (x.timer u).tick by rw [hk, ht]]
      cases c <;> rfl
    | some h =>
      rw [reconcile_stop (h := h) (by simp [clocked_setControl_stopped])
        (by rw [State.cia_setCia, Cia.timer_setControl]; simp [Cia.setCounter, hk, ht])]
      rw [hx', show q = s.queue.filter (fun e => decide (e.seq ≠ h)) by simp only [q, ht]; exact if_pos ho]
      cases c <;> cases u <;> rfl
  · rw [show crOneShot ((s.cia c).control u) = false from (Bool.not_eq_true _).mp ho, if_neg (by simp)]
    have hx' : x' = _ := if_neg ho
    have hq : q = s.queue := by
      simp only [q]; split
      · exact if_neg ho
      · rfl
    rw [hx', hq]
    cases c <;> rfl

/-- Step (c) (R248), by the chip's registers. -/
theorem expireInterrupt_eq (s : State) (c : Chip) (u : TimerId) :
    expireInterrupt c u s = if (s.cia c).mask.getLsbD (timerBit u) = true then
      { s.setCia c { s.cia c with ir := true } with
        envCalls := s.envCalls ++ [(c, true)] }.assertLine (chipLine c) 0#4 true else s := by
  unfold expireInterrupt State.raiseInterrupt
  simp only [State.setCia_envCalls]

/-- An expiry without its cascade, as one update (R248 (a) to (c)). -/
theorem expireUnit_eq (s : State) (c : Chip) (u : TimerId) :
    let x := { s.cia c with flags := setFlag (s.cia c).flags u }
    let oneShot := ((s.cia c).control u).getLsbD 3 = true
    let x' := if oneShot then
        (x.setTimer u { (x.timer u) with counter := 0#16, tick := none }).setControl u (crStopped ((s.cia c).control u))
      else x.loadCounter u
    let q := match ((s.cia c).timer u).tick with
      | some h => if oneShot then s.queue.filter (fun e => decide (e.seq ≠ h)) else s.queue
      | none => s.queue
    let t := { s.setCia c x' with queue := q }
    expireUnit c u s = .ok (if (s.cia c).mask.getLsbD (timerBit u) = true then
        { t.setCia c { x' with ir := true } with
          envCalls := s.envCalls ++ [(c, true)] }.assertLine (chipLine c) 0#4 true
      else t) := by
  intro x oneShot x' q t
  have hr : expireReload c u (expireFlag c u s) = .ok t := expireReload_eq s c u
  have hx : t.cia c = x' := by cases c <;> rfl
  have hm : x'.mask = (s.cia c).mask := by simp only [x']; split <;> simp [x, Cia.loadCounter, Cia.setCounter]
  have he : t.envCalls = s.envCalls := by cases c <;> rfl
  rw [expireUnit, hr]
  dsimp only
  rw [expireInterrupt_eq]
  by_cases hb : (s.cia c).mask.getLsbD (timerBit u) = true
  · rw [if_pos (show (t.cia c).mask.getLsbD (timerBit u) = true by rw [hx, hm]; exact hb), if_pos hb, hx, he]
  · rw [if_neg (show ¬ (t.cia c).mask.getLsbD (timerBit u) = true by rw [hx, hm]; exact hb), if_neg hb]

/-- The cascade is a tick of unit B when CRB selects it (R249). -/
theorem cascade_eq (c : Chip) (s : State) :
    cascade c s =
      if (s.cia c).crb.getLsbD 0 = true ∧ (s.cia c).crb.toNat / 32 % 4 = 2 then tick c .b s else .ok s := by
  unfold cascade
  by_cases h : cascaded (s.cia c) = true
  · rw [if_pos h, if_pos ((cascaded_iff _).1 h)]; rfl
  · rw [if_neg h, if_neg (mt (cascaded_iff _).2 h)]

/-- A tick that finds the counter above 1 counts down (R246). -/
theorem tick_countDown {c : Chip} {u : TimerId} {s : State} (h : 1 < ((s.cia c).timer u).counter.toNat) :
    tick c u s = .ok (countDown c u s) := by
  have hz : atZero (s.cia c) u = false := by simp [atZero]; omega
  cases u <;> simp [tick, tickA, tickB, hz]

/-- A tick of unit B that finds the counter at 1 or 0 is an expiry (R246). -/
theorem tickB_expire {c : Chip} {s : State} (h : (s.cia c).tb.counter.toNat ≤ 1) :
    tick c .b s = expireUnit c .b s := by
  have hz : atZero (s.cia c) .b = true := decide_eq_true h
  simp only [tick, tickB, hz]; rfl

/-- A tick of unit A that finds the counter at 1 or 0 is an expiry and then the cascade (R246, R249). -/
theorem tickA_expire {c : Chip} {s t : State} (h : (s.cia c).ta.counter.toNat ≤ 1)
    (ht : expireUnit c .a s = .ok t) : tick c .a s = cascade c t := by
  have hz : atZero (s.cia c) .a = true := decide_eq_true h
  simp only [tick, tickA, hz, ht]; rfl

/-! ## What an expiry and a tick leave -/

/-- An expiry issues no handle, emits nothing, stops nothing, and queues nothing. -/
structure Quiet (s t : State) : Prop where
  nextSeq : t.nextSeq = s.nextSeq
  output : t.output = s.output
  fault : t.fault = s.fault
  queue : t.queue.Sublist s.queue

theorem Quiet.refl (s : State) : Quiet s s := ⟨rfl, rfl, rfl, List.Sublist.refl _⟩

theorem Quiet.trans {s t r : State} (h : Quiet s t) (h' : Quiet t r) : Quiet s r :=
  ⟨h'.nextSeq.trans h.nextSeq, h'.output.trans h.output, h'.fault.trans h.fault, h'.queue.trans h.queue⟩

theorem Quiet.setCia (s : State) (c : Chip) (x : Cia) : Quiet s (s.setCia c x) := by
  constructor <;> simp

/-- An expiry, in the shape the lemmas below need: the chip and the queue after (a) and (b), then (c). -/
theorem expireUnit_split {c : Chip} {u : TimerId} {s t : State} (h : expireUnit c u s = .ok t) :
    ∃ x q, t = expireInterrupt c u { s.setCia c x with queue := q } ∧
      x.flags = setFlag (s.cia c).flags u ∧ x.ir = (s.cia c).ir ∧ x.mask = (s.cia c).mask ∧
      (∀ v, v ≠ u → x.timer v = (s.cia c).timer v ∧ x.control v = (s.cia c).control v) ∧
      (((x.timer u).tick = ((s.cia c).timer u).tick ∧ x.control u = (s.cia c).control u ∧ q = s.queue) ∨
        ((x.timer u).tick = none ∧ x.control u = crStopped ((s.cia c).control u) ∧
          q = match ((s.cia c).timer u).tick with
            | some h => (s.dequeue h).queue
            | none => s.queue)) := by
  have hr := expireReload_eq s c u
  dsimp only at hr
  rw [expireUnit, hr] at h
  cases h
  refine ⟨_, _, rfl, ?_⟩
  by_cases ho : ((s.cia c).control u).getLsbD 3 = true
  · simp only [ho, if_true]
    refine ⟨by simp, by simp, by simp, ?_, .inr ⟨by simp, by simp, ?_⟩⟩
    · intro v hv
      cases u <;> cases v <;> first | exact absurd rfl hv | exact ⟨rfl, rfl⟩
    · cases ((s.cia c).timer u).tick <;> rfl
  · simp only [ho]
    refine ⟨by simp [Cia.loadCounter, Cia.setCounter], by simp [Cia.loadCounter, Cia.setCounter],
      by simp [Cia.loadCounter, Cia.setCounter], ?_, .inl ⟨?_, ?_, ?_⟩⟩
    · intro v hv
      cases u <;> cases v <;> first | exact absurd rfl hv | exact ⟨rfl, rfl⟩
    · cases u <;> rfl
    · cases u <;> rfl
    · cases ((s.cia c).timer u).tick <;> rfl

/-- Step (c) changes nothing but the output, its record and its line. -/
theorem expireInterrupt_quiet (c : Chip) (u : TimerId) (s : State) :
    (expireInterrupt c u s).queue = s.queue ∧ (expireInterrupt c u s).nextSeq = s.nextSeq ∧
    (expireInterrupt c u s).output = s.output ∧ (expireInterrupt c u s).fault = s.fault ∧
    ∀ v, ((expireInterrupt c u s).cia c).timer v = (s.cia c).timer v ∧
      ((expireInterrupt c u s).cia c).control v = (s.cia c).control v := by
  unfold expireInterrupt
  dsimp only
  split
  · refine ⟨by simp, by simp, by simp, by simp, fun v => ?_⟩
    simp only [State.raiseInterrupt_cia, State.cia_setCia]
    cases v <;> exact ⟨rfl, rfl⟩
  · exact ⟨rfl, rfl, rfl, rfl, fun _ => ⟨rfl, rfl⟩⟩

theorem expireUnit_quiet {c : Chip} {u : TimerId} {s t : State} (h : expireUnit c u s = .ok t) : Quiet s t := by
  obtain ⟨x, q, rfl, -, -, -, -, hq⟩ := expireUnit_split h
  obtain ⟨h1, h2, h3, h4, -⟩ := expireInterrupt_quiet c u { s.setCia c x with queue := q }
  refine ⟨by rw [h2]; simp, by rw [h3]; simp, by rw [h4]; simp, ?_⟩
  rw [h1]
  rcases hq with ⟨-, -, rfl⟩ | ⟨-, -, rfl⟩
  · exact List.Sublist.refl _
  · split
    · exact List.filter_sublist
    · exact List.Sublist.refl _

theorem tick_quiet {c : Chip} {u : TimerId} {s t : State} (h : tick c u s = .ok t) : Quiet s t := by
  have hB : ∀ {s t : State}, tick c .b s = .ok t → Quiet s t := by
    intro s t h
    by_cases hk : 1 < ((s.cia c).timer .b).counter.toNat
    · rw [tick_countDown hk] at h; cases h; exact .setCia s c _
    · rw [tickB_expire (Nat.not_lt.1 hk)] at h; exact expireUnit_quiet h
  cases u with
  | b => exact hB h
  | a =>
    by_cases hk : 1 < ((s.cia c).timer .a).counter.toNat
    · rw [tick_countDown hk] at h; cases h; exact .setCia s c _
    · obtain ⟨r, hr⟩ := expireUnit_ok c .a s
      rw [tickA_expire (Nat.not_lt.1 hk) hr, cascade_eq] at h
      split at h
      · exact (expireUnit_quiet hr).trans (hB h)
      · cases h; exact expireUnit_quiet hr

/-- The ticks of an expiry: the other unit is untouched; the unit itself keeps its control register, tick
handle and queue, or it has stopped and its tick is gone. -/
theorem expireUnit_ticks {c : Chip} {u : TimerId} {s t : State} (h : expireUnit c u s = .ok t) :
    (∀ v, v ≠ u → (t.cia c).timer v = (s.cia c).timer v ∧ (t.cia c).control v = (s.cia c).control v) ∧
    ((((t.cia c).timer u).tick = ((s.cia c).timer u).tick ∧ (t.cia c).control u = (s.cia c).control u ∧
        t.queue = s.queue) ∨
      (((t.cia c).timer u).tick = none ∧ (t.cia c).control u = crStopped ((s.cia c).control u) ∧
        t.queue = match ((s.cia c).timer u).tick with
          | some h => (s.dequeue h).queue
          | none => s.queue)) := by
  obtain ⟨x, q, rfl, -, -, -, hv, hq⟩ := expireUnit_split h
  obtain ⟨h1, -, -, -, h5⟩ := expireInterrupt_quiet c u { s.setCia c x with queue := q }
  have hx : ∀ v, (({ s.setCia c x with queue := q } : State).cia c).timer v = x.timer v ∧
      (({ s.setCia c x with queue := q } : State).cia c).control v = x.control v := by
    intro v; cases c <;> exact ⟨rfl, rfl⟩
  simp only [(h5 _).1, (h5 _).2, h1, (hx _).1, (hx _).2]
  exact ⟨hv, hq⟩

/-! ## Reconciling, and a control register write -/

/-- What `Reconcile` answers (42_timer.md R243): nothing to do, a tick removed, or a tick queued or stopped. -/
theorem reconcile_cases (c : Chip) (u : TimerId) (s : State) :
   (reconcile c u s = .ok s ∧ (clocked (s.cia c) u = ((s.cia c).timer u).tick.isSome)) ∨
   (∃ h, clocked (s.cia c) u = false ∧ ((s.cia c).timer u).tick = some h ∧ reconcile c u s = .ok ((s.dequeue h).setTick c u none)) ∨
   (clocked (s.cia c) u = true ∧ ((s.cia c).timer u).tick = none ∧ 
     ((maxU64 < s.cycle.toNat + timerRate s.cfg c ∧ reconcile c u s = .error (s.raiseFault .cycleOverflow)) ∨
      (s.nextSeq.toNat = maxU64 ∧ reconcile c u s = .error (s.raiseFault .seqOverflow)) ∨
      (s.cycle.toNat + timerRate s.cfg c ≤ maxU64 ∧ s.nextSeq.toNat ≠ maxU64 ∧ reconcile c u s = .ok (({ s with
        queue := s.queue ++ [⟨BitVec.ofNat 64 (s.cycle.toNat + timerRate s.cfg c), s.cfg.timerPhase, s.nextSeq, .tick c u⟩]
        nextSeq := s.nextSeq + 1#64 } : State).setTick c u (some s.nextSeq))))) := by
  cases hc : clocked (s.cia c) u <;> cases ht : ((s.cia c).timer u).tick
  · exact .inl ⟨reconcile_keep_idle hc ht, by simp⟩
  · exact .inr (.inl ⟨_, rfl, rfl, reconcile_stop hc ht⟩)
  · right; right; refine ⟨rfl, rfl, ?_⟩
    rw [reconcile_start hc ht]
    rcases enqueue_cases s (timerRate s.cfg c) s.cfg.timerPhase (.tick c u) with ⟨h4, h⟩ | ⟨_, h6, h⟩ | ⟨h4, h6, h⟩ <;> rw [h]
    · exact .inl ⟨h4, rfl⟩
    · exact .inr (.inl ⟨h6, rfl⟩)
    · exact .inr (.inr ⟨h4, h6, rfl⟩)
  · exact .inl ⟨reconcile_keep_clocked hc ht, by simp⟩

/-- A control register write is `Reconcile` after an update of the chip (42_timer.md R240, R241). -/
theorem writeControl_split (c : Chip) (u : TimerId) (v : Byte) (s : State) : ∃ x,
    writeControl c u v s = reconcile c u (s.setCia c x) ∧ x.pra = (s.cia c).pra ∧ x.prb = (s.cia c).prb ∧
    x.ddra = (s.cia c).ddra ∧ x.ddrb = (s.cia c).ddrb ∧ x.mask = (s.cia c).mask ∧ x.flags = (s.cia c).flags ∧
    x.ir = (s.cia c).ir ∧ x.control u = crStored v ∧
    (∀ w, w ≠ u → x.control w = (s.cia c).control w ∧ x.timer w = (s.cia c).timer w) ∧
    (x.timer u).tick = ((s.cia c).timer u).tick := by
  unfold writeControl; dsimp only
  refine ⟨_, rfl, ?_⟩
  split <;> cases u <;>
    simp [Cia.loadCounter, Cia.setCounter, Cia.setTimer, Cia.setControl, Cia.control, Cia.timer] <;>
    (intro w hw; cases w <;> simp_all)

end Sys2Proof.Machine
end

