-- ==== Sys2Proof/Laws/Lines.lean ====
section
/-! SUPPORT. The levels of an interrupt line: setting one, and the OR of all (43_interrupts.md R292,
R293). -/

namespace Sys2Proof.Machine

/-- The OR of a line's levels. -/
theorem anyAsserted_iff (v : Levels) : anyAsserted v = true ↔ ∃ j, levelOf v j = true := by
  unfold anyAsserted levelOf
  rw [List.any_eq_true]
  constructor
  · rintro ⟨x, hx, hb⟩
    obtain ⟨i, hi, rfl⟩ := List.mem_iff_getElem.1 hx
    have hi' : i < 16 := by simpa using hi
    refine ⟨BitVec.ofNat 4 i, ?_⟩
    have : (BitVec.ofNat 4 i).toNat = i := by simp; omega
    simp only [this]
    simpa using hb
  · rintro ⟨j, hj⟩
    exact ⟨_, List.getElem_mem (l := v.toList) (n := j.toNat) (by simp; omega), by simpa using hj⟩

/-- Setting one source's level leaves the others. -/
theorem levelOf_setLevel (v : Levels) (i j : BitVec 4) (b : Bool) :
    levelOf (setLevel v i b) j = if j = i then b else levelOf v j := by
  unfold levelOf setLevel
  rw [Vector.getElem_set]
  simp only [BitVec.toNat_eq]
  by_cases h : i.toNat = j.toNat
  · rw [if_pos h, if_pos h.symm]
  · rw [if_neg h, if_neg (Ne.symm h)]

theorem levelOf_replicate (j : BitVec 4) : levelOf (Vector.replicate 16 false) j = false := by
  simp [levelOf]

end Sys2Proof.Machine
end

