-- ==== Sys2Proof/Laws/Growth.lean ====
section
/-! SUPPORT. How the queue changes over any step: handles are issued in order and never again
(10_state.md R23, R24), said once for every update. -/

namespace Sys2Proof.Machine

/-- From an ordered queue, `t` has an ordered queue, no smaller next handle, and no event that is neither
old nor of a new handle. -/
def QueueGrows (s t : State) : Prop :=
  QueueOrdered s →
    QueueOrdered t ∧ s.nextSeq.toNat ≤ t.nextSeq.toNat ∧ ∀ e ∈ t.queue, e ∈ s.queue ∨ s.nextSeq.toNat ≤ e.seq.toNat

theorem grows_same {s t : State} (h : t.queue = s.queue) (h' : t.nextSeq = s.nextSeq) : QueueGrows s t := by
  intro hq
  unfold QueueOrdered
  rw [h, h']
  exact ⟨hq, le_refl _, fun e he => .inl he⟩

theorem QueueGrows.trans {s t r : State} (h : QueueGrows s t) (k : QueueGrows t r) : QueueGrows s r := by
  intro hq
  obtain ⟨a1, a2, a3⟩ := h hq
  obtain ⟨b1, b2, b3⟩ := k a1
  refine ⟨b1, by omega, fun e he => ?_⟩
  rcases b3 e he with h | h
  · exact a3 e h
  · right; omega

theorem grows_sublist {s t : State} (h : t.queue.Sublist s.queue) (h' : t.nextSeq = s.nextSeq) :
    QueueGrows s t := by
  intro hq
  exact ⟨⟨hq.1.sublist h, fun e he => by rw [h']; exact hq.2 e (h.subset he)⟩, by rw [h'],
    fun e he => .inl (h.subset he)⟩

theorem enqueue_grows {s t : State} {d p : Nat} {o : Owner} {k : Handle} (he : s.enqueue d p o = .ok (k, t)) :
    QueueGrows s t := by
  rcases enqueue_cases s d p o with ⟨h4, h⟩ | ⟨_, h6, h⟩ | ⟨h4, h6, h⟩ <;> rw [h] at he <;> cases he
  intro hq
  refine ⟨hq.append h6 _ _ _, by dsimp only; rw [nextSeq_succ h6]; omega, fun e he => ?_⟩
  rcases List.mem_append.1 he with h | h
  · exact .inl h
  · obtain rfl := List.mem_singleton.1 h; right; exact le_refl _

theorem reconcile_grows (c : Chip) (u : TimerId) (s : State) : QueueGrows s (settled (reconcile c u s)) := by
  rcases reconcile_cases c u s with ⟨h, _⟩ | ⟨k, _, _, h⟩ | ⟨_, _, ⟨_, h⟩ | ⟨_, h⟩ | ⟨_, h6, h⟩⟩ <;> rw [h]
  · exact grows_same rfl rfl
  · exact grows_sublist (by simp [settled, State.setTick]) (by simp [settled, State.setTick])
  · exact grows_same rfl rfl
  · exact grows_same rfl rfl
  · intro hq
    have := hq.append h6 (BitVec.ofNat 64 (s.cycle.toNat + timerRate s.cfg c)) s.cfg.timerPhase (.tick c u)
    refine ⟨?_, ?_, ?_⟩
    · unfold QueueOrdered at *; simpa [settled, State.setTick] using this
    · simp only [settled, State.setTick, State.setCia_nextSeq]; rw [nextSeq_succ h6]; omega
    · simp only [settled, State.setTick, State.setCia_queue]
      intro e he
      rcases List.mem_append.1 he with h | h
      · exact .inl h
      · obtain rfl := List.mem_singleton.1 h; right; exact le_refl _

/-- Firing a tick is a tick, which never stops, then `Reconcile` (42_timer.md R247). -/
theorem settled_fireTick (c : Chip) (u : TimerId) (s : State) :
    ∃ t, tick c u (s.setTick c u none) = .ok t ∧ settled (fireTick c u s) = settled (reconcile c u t) := by
  obtain ⟨t, ht⟩ := tick_ok c u (s.setTick c u none)
  exact ⟨t, ht, by rw [fireTick, ht]⟩

theorem fireTick_grows (c : Chip) (u : TimerId) (s : State) : QueueGrows s (settled (fireTick c u s)) := by
  obtain ⟨t, ht, h⟩ := settled_fireTick c u s
  rw [h]
  have := tick_quiet ht
  exact (grows_sublist (by simpa [State.setTick] using this.queue)
    (by simpa [State.setTick] using this.nextSeq)).trans (reconcile_grows c u t)

theorem sweepStep_grows (rem : BitVec 64) (s : State) : QueueGrows s (sweepStep rem s) := by
  rcases sweepStep_cases rem s with ⟨_, h⟩ | ⟨e, _, _, _, ⟨tag, _, h⟩ | ⟨c, u, _, h⟩⟩ <;> rw [h]
  · unfold endSweep; split <;> exact grows_same rfl rfl
  · exact grows_sublist (by simp) rfl
  · exact QueueGrows.trans (t := s.dequeue e.seq) (grows_sublist (by simp) rfl) (fireTick_grows c u _)

theorem writeControl_grows (c : Chip) (u : TimerId) (v : Byte) (s : State) :
    QueueGrows s (settled (writeControl c u v s)) := by
  obtain ⟨x, hx, -⟩ := writeControl_split c u v s
  rw [hx]
  exact QueueGrows.trans (grows_same (by simp) (by simp)) (reconcile_grows c u (s.setCia c x))

theorem exec_grows {i : Instr} {s t : State} (h : exec i s = .next t) : QueueGrows s t := by
  have hap : ∀ c p x, QueueGrows s (afterPortWrite c p (s.setCia c x)) := by
    intro c p x
    apply grows_same <;> cases c <;> cases p <;> simp [afterPortWrite, updateSide] <;> split <;> simp
  cases exec_effect h
  case schedule d p tag k t hi hp he => exact (enqueue_grows he).trans (grows_same rfl rfl)
  case scheduleStop d p tag hi he =>
    rcases enqueue_cases s d.toNat p.toNat (.ext tag) with ⟨_, h5⟩ | ⟨_, _, h5⟩ | ⟨_, _, h5⟩ <;>
      rw [h5] at he <;> cases he <;> exact grows_same rfl rfl
  case cancel => exact grows_sublist (by simp) rfl
  case ciaPort => exact (hap _ _ _).trans (grows_same rfl rfl)
  case ciaDir => exact (hap _ _ _).trans (grows_same rfl rfl)
  case icrRead c => unfold clearIcr; dsimp only; split <;> exact grows_same (by simp) (by simp)
  case icrWrite c v => unfold writeMask; dsimp only; split <;> exact grows_same (by simp) (by simp)
  case control c u v t hv ht =>
    have := writeControl_grows c u v s
    rw [ht] at this
    exact QueueGrows.trans this (grows_same rfl rfl)
  case controlStop c u v hv ht =>
    have := writeControl_grows c u v s
    rw [ht] at this
    exact this
  all_goals exact grows_same (by simp) (by simp)

/-- Every step. -/
theorem step_grows {s t : State} (h : step s = .next t) : QueueGrows s t := by
  obtain ⟨_, ⟨rem, _, rfl⟩ | ⟨_, rfl | ⟨f, _, rfl⟩ | ⟨f, i, _, _, he⟩⟩⟩ := step_cases h
  · exact sweepStep_grows rem s
  · exact grows_same rfl rfl
  · exact grows_same rfl rfl
  · exact QueueGrows.trans (t := { s with commands := f.rest }) (grows_same rfl rfl) (exec_grows he)

end Sys2Proof.Machine
end

