-- ==== Sys2Proof/Laws/PerInstr.lean ====
section
/-! SUPPORT. What is proved for every instruction as syntax, one lemma per constructor: the family `Words`
says that a row's words are those of its command (30_encoding.md R126), which is well-formed where the
row is, and how many they are (R112). -/

namespace Sys2Proof.Laws.Words

/-- How many words the instruction's command has: three for `SCHEDULE` and `CANCEL`, one for the others. -/
def count : Instr → Nat
  | .schedule _ _ _ => 3
  | .cancel _ => 3
  | _ => 1

/-- The words of an instruction. -/
def Statement (i : Instr) : Prop :=
  i.command.isCommand = true ∧ (i.wf = true → i.command.wf = true) ∧ encode i = encode i.command ∧
    (encode i).length = count i

theorem read (addr : Addr) : Statement (.read addr) := ⟨decide_eq_true rfl, fun _ => rfl, rfl, rfl⟩
theorem write (addr : Addr) (data : Byte) : Statement (.write addr data) := ⟨decide_eq_true rfl, fun _ => rfl, rfl, rfl⟩
theorem schedule (delay : BitVec 64) (phase : BitVec 4) (tag : BitVec 16) : Statement (.schedule delay phase tag) := ⟨decide_eq_true rfl, fun _ => rfl, rfl, rfl⟩
theorem cancel (handle : Handle) : Statement (.cancel handle) := ⟨decide_eq_true rfl, fun _ => rfl, rfl, rfl⟩
theorem cycle : Statement .cycle := ⟨decide_eq_true rfl, fun _ => rfl, rfl, rfl⟩
theorem advance (n : BitVec 28) : Statement (.advance n) := ⟨decide_eq_true rfl, fun _ => rfl, rfl, rfl⟩
theorem ret : Statement .ret := ⟨decide_eq_true rfl, fun _ => rfl, rfl, rfl⟩
theorem assert (line : Line) (src : BitVec 4) (active : Bool) : Statement (.assert line src active) := ⟨decide_eq_true rfl, id, rfl, rfl⟩
theorem sample (line : Line) : Statement (.sample line) := ⟨decide_eq_true rfl, fun _ => rfl, rfl, rfl⟩
theorem ack : Statement .ack := ⟨decide_eq_true rfl, fun _ => rfl, rfl, rfl⟩
theorem setbus (byte : Byte) : Statement (.setbus byte) := ⟨decide_eq_true rfl, fun _ => rfl, rfl, rfl⟩
theorem cart (present exrom game : Bool) : Statement (.cart present exrom game) := ⟨decide_eq_true rfl, id, rfl, rfl⟩
theorem reservedOp0 (rest : BitVec 28) : Statement (.reservedOp0 rest) := ⟨decide_eq_true rfl, fun _ => rfl, rfl, rfl⟩
theorem reservedOpD (rest : BitVec 28) : Statement (.reservedOpD rest) := ⟨decide_eq_true rfl, fun _ => rfl, rfl, rfl⟩
theorem reservedOpE (rest : BitVec 28) : Statement (.reservedOpE rest) := ⟨decide_eq_true rfl, fun _ => rfl, rfl, rfl⟩
theorem reservedOpF (rest : BitVec 28) : Statement (.reservedOpF rest) := ⟨decide_eq_true rfl, fun _ => rfl, rfl, rfl⟩
theorem readPortDdr : Statement .readPortDdr := ⟨decide_eq_true rfl, fun _ => rfl, rfl, rfl⟩
theorem readPortData : Statement .readPortData := ⟨decide_eq_true rfl, fun _ => rfl, rfl, rfl⟩
theorem writePortDdr (data : Byte) : Statement (.writePortDdr data) := ⟨decide_eq_true rfl, fun _ => rfl, rfl, rfl⟩
theorem writePortData (data : Byte) : Statement (.writePortData data) := ⟨decide_eq_true rfl, fun _ => rfl, rfl, rfl⟩
theorem readRam (addr : Addr) : Statement (.readRam addr) := ⟨decide_eq_true rfl, fun _ => rfl, rfl, rfl⟩
theorem writeRam (addr : Addr) (data : Byte) : Statement (.writeRam addr data) := ⟨decide_eq_true rfl, fun _ => rfl, rfl, rfl⟩
theorem readBasic (addr : Addr) : Statement (.readBasic addr) := ⟨decide_eq_true rfl, fun _ => rfl, rfl, rfl⟩
theorem readKernal (addr : Addr) : Statement (.readKernal addr) := ⟨decide_eq_true rfl, fun _ => rfl, rfl, rfl⟩
theorem readChar (addr : Addr) : Statement (.readChar addr) := ⟨decide_eq_true rfl, fun _ => rfl, rfl, rfl⟩
theorem writeRom (addr : Addr) (data : Byte) : Statement (.writeRom addr data) := ⟨decide_eq_true rfl, fun _ => rfl, rfl, rfl⟩
theorem readColor (addr : Addr) : Statement (.readColor addr) := ⟨decide_eq_true rfl, fun _ => rfl, rfl, rfl⟩
theorem writeColor (addr : Addr) (data : Byte) : Statement (.writeColor addr data) := ⟨decide_eq_true rfl, fun _ => rfl, rfl, rfl⟩
theorem readOpen (addr : Addr) : Statement (.readOpen addr) := ⟨decide_eq_true rfl, fun _ => rfl, rfl, rfl⟩
theorem writeOpen (addr : Addr) (data : Byte) : Statement (.writeOpen addr data) := ⟨decide_eq_true rfl, fun _ => rfl, rfl, rfl⟩
theorem readVic (addr : Addr) : Statement (.readVic addr) := ⟨decide_eq_true rfl, fun _ => rfl, rfl, rfl⟩
theorem writeVic (addr : Addr) (data : Byte) : Statement (.writeVic addr data) := ⟨decide_eq_true rfl, fun _ => rfl, rfl, rfl⟩
theorem readSid (addr : Addr) : Statement (.readSid addr) := ⟨decide_eq_true rfl, fun _ => rfl, rfl, rfl⟩
theorem writeSid (addr : Addr) (data : Byte) : Statement (.writeSid addr data) := ⟨decide_eq_true rfl, fun _ => rfl, rfl, rfl⟩
theorem readRoml (addr : Addr) : Statement (.readRoml addr) := ⟨decide_eq_true rfl, fun _ => rfl, rfl, rfl⟩
theorem writeRoml (addr : Addr) (data : Byte) : Statement (.writeRoml addr data) := ⟨decide_eq_true rfl, fun _ => rfl, rfl, rfl⟩
theorem readRomhA (addr : Addr) : Statement (.readRomhA addr) := ⟨decide_eq_true rfl, fun _ => rfl, rfl, rfl⟩
theorem readRomhE (addr : Addr) : Statement (.readRomhE addr) := ⟨decide_eq_true rfl, fun _ => rfl, rfl, rfl⟩
theorem writeRomhE (addr : Addr) (data : Byte) : Statement (.writeRomhE addr data) := ⟨decide_eq_true rfl, fun _ => rfl, rfl, rfl⟩
theorem readIo1 (addr : Addr) : Statement (.readIo1 addr) := ⟨decide_eq_true rfl, fun _ => rfl, rfl, rfl⟩
theorem writeIo1 (addr : Addr) (data : Byte) : Statement (.writeIo1 addr data) := ⟨decide_eq_true rfl, fun _ => rfl, rfl, rfl⟩
theorem readIo2 (addr : Addr) : Statement (.readIo2 addr) := ⟨decide_eq_true rfl, fun _ => rfl, rfl, rfl⟩
theorem writeIo2 (addr : Addr) (data : Byte) : Statement (.writeIo2 addr data) := ⟨decide_eq_true rfl, fun _ => rfl, rfl, rfl⟩
theorem readCiaPr (chip : Chip) (addr : Addr) : Statement (.readCiaPr chip addr) := ⟨decide_eq_true rfl, fun _ => rfl, rfl, rfl⟩
theorem writeCiaPr (chip : Chip) (addr : Addr) (data : Byte) : Statement (.writeCiaPr chip addr data) := ⟨decide_eq_true rfl, fun _ => rfl, rfl, rfl⟩
theorem readCiaDdr (chip : Chip) (addr : Addr) : Statement (.readCiaDdr chip addr) := ⟨decide_eq_true rfl, fun _ => rfl, rfl, rfl⟩
theorem writeCiaDdr (chip : Chip) (addr : Addr) (data : Byte) : Statement (.writeCiaDdr chip addr data) := ⟨decide_eq_true rfl, fun _ => rfl, rfl, rfl⟩
theorem readCiaTlo (chip : Chip) (addr : Addr) : Statement (.readCiaTlo chip addr) := ⟨decide_eq_true rfl, fun _ => rfl, rfl, rfl⟩
theorem writeCiaTlo (chip : Chip) (addr : Addr) (data : Byte) : Statement (.writeCiaTlo chip addr data) := ⟨decide_eq_true rfl, fun _ => rfl, rfl, rfl⟩
theorem readCiaThi (chip : Chip) (addr : Addr) : Statement (.readCiaThi chip addr) := ⟨decide_eq_true rfl, fun _ => rfl, rfl, rfl⟩
theorem writeCiaThi (chip : Chip) (addr : Addr) (data : Byte) : Statement (.writeCiaThi chip addr data) := ⟨decide_eq_true rfl, fun _ => rfl, rfl, rfl⟩
theorem readCiaTod (chip : Chip) (addr : Addr) : Statement (.readCiaTod chip addr) := ⟨decide_eq_true rfl, fun _ => rfl, rfl, rfl⟩
theorem writeCiaTod (chip : Chip) (addr : Addr) (data : Byte) : Statement (.writeCiaTod chip addr data) := ⟨decide_eq_true rfl, fun _ => rfl, rfl, rfl⟩
theorem readCiaSdr (chip : Chip) (addr : Addr) : Statement (.readCiaSdr chip addr) := ⟨decide_eq_true rfl, fun _ => rfl, rfl, rfl⟩
theorem writeCiaSdr (chip : Chip) (addr : Addr) (data : Byte) : Statement (.writeCiaSdr chip addr data) := ⟨decide_eq_true rfl, fun _ => rfl, rfl, rfl⟩
theorem readCiaIcr (chip : Chip) (addr : Addr) : Statement (.readCiaIcr chip addr) := ⟨decide_eq_true rfl, fun _ => rfl, rfl, rfl⟩
theorem writeCiaIcr (chip : Chip) (addr : Addr) (data : Byte) : Statement (.writeCiaIcr chip addr data) := ⟨decide_eq_true rfl, fun _ => rfl, rfl, rfl⟩
theorem readCiaCr (chip : Chip) (addr : Addr) : Statement (.readCiaCr chip addr) := ⟨decide_eq_true rfl, fun _ => rfl, rfl, rfl⟩
theorem writeCiaCr (chip : Chip) (addr : Addr) (data : Byte) : Statement (.writeCiaCr chip addr data) := ⟨decide_eq_true rfl, fun _ => rfl, rfl, rfl⟩

end Sys2Proof.Laws.Words
end

