-- ==== Sys2Proof/Laws/Router.lean ====
section
/-! SUPPORT. The default binding tables (20_memory.md R80 to R82) and the mode number (R78). -/

namespace Sys2Proof

theorem PlaInputs.mode_lt (p : PlaInputs) : p.mode < 32 := by
  have := Bool.toNat_lt p.exrom
  have := Bool.toNat_lt p.game
  have := Bool.toNat_lt p.charen
  have := Bool.toNat_lt p.hiram
  have := Bool.toNat_lt p.loram
  unfold PlaInputs.mode
  omega

theorem PlaInputs.row_lt (p : PlaInputs) : p.row < 64 := by
  have := p.mode_lt
  have := Bool.toNat_lt p.present
  unfold PlaInputs.row
  omega

/-- A configuration's row number gives its inputs back. -/
theorem PlaInputs.ofRow_row (p : PlaInputs) : PlaInputs.ofRow p.row = p := by
  obtain ⟨a, b, c, d, e, f⟩ := p
  cases a <;> cases b <;> cases c <;> cases d <;> cases e <;> cases f <;> decide

/-- The default read table names no `PORT`. -/
theorem plaReadDefault_ne_port (p : PlaInputs) (r : BitVec 4) : plaReadDefault p r ≠ .bank .port := by
  unfold plaReadDefault
  dsimp only
  split_ifs <;> exact fun h => nomatch h

/-- The default read table has `IO` in region 0xD only. -/
theorem plaReadDefault_io {p : PlaInputs} {r : BitVec 4} (h : plaReadDefault p r = .io) : r = 0xD#4 := by
  unfold plaReadDefault at h
  dsimp only at h
  split_ifs at h <;> first | (cases h; done) | (apply BitVec.eq_of_toNat_eq; assumption)

/-- Which entries the default write table has. -/
theorem plaWriteDefault_cases (p : PlaInputs) (d : Option Target) (r : BitVec 4) :
    plaWriteDefault p d r = .bank .ram ∨ plaWriteDefault p d r = .bank .openBus ∨
    plaWriteDefault p d r = .bank (.ext .roml) ∨ plaWriteDefault p d r = .bank (.ext .romh) ∨
    (plaWriteDefault p d r = .io ∧ r = 0xD#4 ∧ d = some .io) := by
  unfold plaWriteDefault
  dsimp only
  by_cases h0 : r.toNat = 0
  · simp [h0]
  by_cases h7 : r.toNat ≤ 7
  · cases p.ultimax <;> simp [h0, h7]
  by_cases h9 : r.toNat ≤ 9
  · cases p.ultimax <;> simp [h0, h7, h9]
  by_cases hc : r.toNat ≤ 0xC
  · cases p.ultimax <;> simp [h0, h7, h9, hc]
  by_cases hd : r.toNat = 0xD
  · have hr : r = 0xD#4 := BitVec.eq_of_toNat_eq hd
    by_cases hio : d = some .io
    · rw [if_neg h0, if_neg h7, if_neg h9, if_neg hc, if_pos hd, if_pos hio]
      exact .inr (.inr (.inr (.inr ⟨rfl, hr, hio⟩)))
    · rw [if_neg h0, if_neg h7, if_neg h9, if_neg hc, if_pos hd, if_neg hio]; exact .inl rfl
  · cases p.ultimax <;> simp [h0, h7, h9, hc, hd]

theorem ioDecodeDefault_ne_port (p : PlaInputs) (pg : BitVec 4) : ioDecodeDefault p pg ≠ .port := by
  unfold ioDecodeDefault
  dsimp only
  split_ifs <;> exact fun h => nomatch h

/-- The default write table has `IO` in region 0xD exactly where the read table in force has (R82, R86). -/
theorem ioAgrees_defaultWrite (rt : Option BindingTable) : ioAgrees rt none = true := by
  unfold ioAgrees
  rw [List.all_eq_true]
  intro row _
  have h : readRegion rt (PlaInputs.ofRow row) 0xD#4 = some .io ↔
      writeRegion rt none (PlaInputs.ofRow row) 0xD#4 = some .io := by
    simp [writeRegion, plaWriteDefault]
  rw [beq_iff_eq, decide_eq_decide]
  exact h

/-- With the default write table, the check is the read table's own (R86). -/
theorem tablesValid_defaultWrite (rt : Option BindingTable) : tablesValid rt none = tableValid rt := by
  simp [tablesValid, ioAgrees_defaultWrite, tableValid]

/-- The default tables pass the check (R86). -/
theorem tablesValid_default : tablesValid none none = true := by
  rw [tablesValid_defaultWrite]; rfl

end Sys2Proof
end

