-- ==== Sys2Proof/Machine/Assembly.lean ====
section
/-! DEFINITION. The assembler's text form (30_encoding.md R128) and its pseudo-commands (R129). They are
no part of the machine: a pseudo-command is the list of commands it expands to. -/

namespace Sys2Proof.Machine

/-- A value in `$`-prefixed hexadecimal with `digits` digits (R128). -/
def hexText (digits : Nat) (v : Nat) : String :=
  let all := Nat.toDigits 16 v
  "$" ++ String.ofList (List.replicate (digits - all.length) '0' ++ all.map Char.toUpper)

/-- A one-bit operand. -/
def bitText (b : Bool) : String := if b then "1" else "0"

/-- A line's name (R128). -/
def lineText : Line → String
  | .irq => "IRQ"
  | .nmi => "NMI"

/-- The assembler text of a command (R128): a target row is its command, and a reserved OP, which the
assembler cannot write, is none. -/
def assemblyText (i : Instr) : Option String :=
  match i.command with
  | .read a => some ("READ " ++ hexText 4 a.toNat)
  | .write a v => some ("WRITE " ++ hexText 4 a.toNat ++ ", " ++ hexText 2 v.toNat)
  | .schedule d p t =>
    some ("SCHEDULE " ++ toString d.toInt ++ ", " ++ toString p.toNat ++ ", " ++ hexText 4 t.toNat)
  | .cancel h => some ("CANCEL " ++ toString h.toNat)
  | .cycle => some "CYCLE"
  | .advance n => some ("ADVANCE " ++ toString n.toNat)
  | .ret => some "RETURN"
  | .assert l src b => some ("ASSERT " ++ lineText l ++ ", " ++ toString src.toNat ++ ", " ++ bitText b)
  | .sample l => some ("SAMPLE " ++ lineText l)
  | .ack => some "ACK NMI"
  | .setbus b => some ("SETBUS " ++ hexText 2 b.toNat)
  | .cart p e g => some ("CART " ++ bitText p ++ ", " ++ bitText e ++ ", " ++ bitText g)
  | _ => none

/-- The pseudo-commands (R129). -/
inductive Pseudo
  | write16 (addr : Addr) (value : BitVec 16)
  | read16 (addr : Addr)
  | setport (dir value : Byte)
  | irqon (base : Addr) (bits : Byte)
  | irqoff (base : Addr) (bits : Byte)
  | timer (base : Addr) (unit : TimerId) (latch : BitVec 16) (cr : Byte)
  deriving DecidableEq, Repr

/-- `WRITE16`: the low byte first; the second address wraps (R129). -/
def expandWrite16 (a : Addr) (v : BitVec 16) : List Instr :=
  [.write a (lowByte v), .write (a + 1#16) (highByte v)]

/-- The commands a pseudo-command expands to (R129). -/
def Pseudo.expand : Pseudo → List Instr
  | .write16 a v => expandWrite16 a v
  | .read16 a => [.read a, .read (a + 1#16)]
  | .setport d v => [.write 0x0000#16 d, .write 0x0001#16 v]
  | .irqon base bits => [.write (base + 0x0D#16) (0x80#8 ||| bits)]
  | .irqoff base bits => [.write (base + 0x0D#16) (bits &&& 0x7F#8)]
  | .timer base .a latch cr => expandWrite16 (base + 4#16) latch ++ [.write (base + 0x0E#16) cr]
  | .timer base .b latch cr => expandWrite16 (base + 6#16) latch ++ [.write (base + 0x0F#16) cr]

end Sys2Proof.Machine
end

