-- ==== Sys2Proof/Tests/Slice0.lean ====
section
/-! SUPPORT. The model's own tests: ill-formed terms and words, the decoding of every constructor, one-step
tests, and for each statement of Certificates/Slice0/Obligations.lean that has hypotheses a witness
that meets them. Expected values are worked out from the rules, or are vectors of
spec/95_test_vectors.md, named at each test. -/

namespace Sys2Proof.Tests

open Sys2Proof.Machine

/-! ## Well-formedness: one ill-formed term for each check -/

theorem test_wf_refuses_assert_source_zero : (Instr.assert .irq 0#4 true).wf = false := by decide

theorem test_wf_refuses_cart_lines_low_without_cartridge :
    (Instr.cart false true false).wf = false ∧ (Instr.cart false false true).wf = false := by decide

theorem test_wf_refuses_port_addresses_in_rows :
    (Instr.readRam 0x0000#16).wf = false ∧ (Instr.writeRam 0x0001#16 0#8).wf = false ∧
    (Instr.writeRom 0x0000#16 0#8).wf = false ∧ (Instr.readOpen 0x0001#16).wf = false ∧
    (Instr.writeOpen 0x0000#16 0#8).wf = false := by decide

theorem test_wf_refuses_rom_rows_outside_their_region :
    (Instr.readBasic 0x9FFF#16).wf = false ∧ (Instr.readBasic 0xC000#16).wf = false ∧
    (Instr.readKernal 0xDFFF#16).wf = false ∧
    (Instr.readChar 0xCFFF#16).wf = false ∧ (Instr.readChar 0xE000#16).wf = false := by decide

theorem test_wf_refuses_io_rows_outside_their_pages :
    (Instr.readVic 0xD400#16).wf = false ∧ (Instr.writeVic 0xCFFF#16 0#8).wf = false ∧
    (Instr.readSid 0xD3FF#16).wf = false ∧ (Instr.writeSid 0xD800#16 0#8).wf = false ∧
    (Instr.readColor 0xD7FF#16).wf = false ∧ (Instr.writeColor 0xDC00#16 0#8).wf = false ∧
    (Instr.readIo1 0xDF00#16).wf = false ∧ (Instr.writeIo1 0xDDFF#16 0#8).wf = false ∧
    (Instr.readIo2 0xDEFF#16).wf = false ∧ (Instr.writeIo2 0xE000#16 0#8).wf = false := by decide

theorem test_wf_refuses_cartridge_rows_outside_their_windows :
    (Instr.readRoml 0x7FFF#16).wf = false ∧ (Instr.writeRoml 0xA000#16 0#8).wf = false ∧
    (Instr.readRomhA 0xC000#16).wf = false ∧ (Instr.readRomhE 0xDFFF#16).wf = false ∧
    (Instr.writeRomhE 0xBFFF#16 0#8).wf = false := by decide

theorem test_wf_refuses_chip_rows_of_another_offset :
    (Instr.readCiaPr .cia1 0xDC02#16).wf = false ∧ (Instr.writeCiaPr .cia1 0xDC02#16 0#8).wf = false ∧
    (Instr.readCiaDdr .cia1 0xDC04#16).wf = false ∧ (Instr.writeCiaDdr .cia1 0xDC01#16 0#8).wf = false ∧
    (Instr.readCiaTlo .cia1 0xDC05#16).wf = false ∧ (Instr.writeCiaTlo .cia1 0xDC07#16 0#8).wf = false ∧
    (Instr.readCiaThi .cia1 0xDC04#16).wf = false ∧ (Instr.writeCiaThi .cia1 0xDC06#16 0#8).wf = false := by decide

theorem test_wf_refuses_chip_rows_of_another_offset_or_chip :
    (Instr.readCiaTod .cia1 0xDC0C#16).wf = false ∧ (Instr.writeCiaTod .cia1 0xDC07#16 0#8).wf = false ∧
    (Instr.readCiaSdr .cia1 0xDC0B#16).wf = false ∧ (Instr.writeCiaSdr .cia1 0xDC0D#16 0#8).wf = false ∧
    (Instr.readCiaIcr .cia1 0xDC0E#16).wf = false ∧ (Instr.writeCiaIcr .cia2 0xDC0D#16 0#8).wf = false ∧
    (Instr.readCiaCr .cia1 0xDC0D#16).wf = false ∧ (Instr.writeCiaCr .cia1 0xDD0E#16 0#8).wf = false := by decide

/-! ## Decoding -/

/-- The row that one header word reaches in a configuration (30_encoding.md R126). -/
def rowOf (c : MapConfig) (w : Word) : Option Instr :=
  match decode [w] with
  | .ok (i, []) => some (target c i)
  | _ => none

/-- The configuration at power-on (mode 31). -/
def bare : MapConfig := MapConfig.powerOn

/-- Power-on with CHAREN 0: the port drives lines 2:0 as 011 (mode 27). -/
def charMap : MapConfig := { MapConfig.powerOn with portDdr := 0x07#8, portData := 0x03#8 }

/-- An 8 KB cartridge, EXROM 0 and GAME 1 (mode 15). -/
def cart8k : MapConfig := { MapConfig.powerOn with cart := ⟨true, false, true⟩ }

/-- A 16 KB cartridge, EXROM 0 and GAME 0 (mode 7). -/
def cart16k : MapConfig := { MapConfig.powerOn with cart := ⟨true, false, false⟩ }

/-- Ultimax, EXROM 1 and GAME 0 (mode 23). -/
def ultimax : MapConfig := { MapConfig.powerOn with cart := ⟨true, true, false⟩ }

/-- A write table that binds every region to one Bank, IO nowhere. -/
def uniform (b : Bank) : BindingTable := List.replicate 64 ⟨List.replicate 16 (.bank b), []⟩

/-- Writes reach the BASIC ROM everywhere, which only a custom `PLA_WRITE` can say (41_address_space.md R185). -/
def romWrites : MapConfig := { MapConfig.powerOn with plaRead := some (uniform .basic), plaWrite := some (uniform .basic) }

/-- A read table that binds region 0xD to `IO`, and every other region to RAM. -/
def ioEverywhere : BindingTable :=
  List.replicate 64 ⟨List.replicate 13 (.bank .ram) ++ [.io] ++ List.replicate 2 (.bank .ram),
    List.replicate 16 (.bank .openBus)⟩

/-- R114, R117: bits 31:28 the OP, 23:16 the data, 15:0 the address. -/
theorem test_decode_bus_commands :
    decode [0b00010000000000001101110000001101#32] = .ok (.read 0xDC0D#16, []) ∧
    decode [0b00100000000100011101110000001110#32] = .ok (.write 0xDC0E#16 0x11#8, []) ∧
    decode [0b01010000000000000000000000000000#32] = .ok (.cycle, []) ∧
    decode [0b01110000000000000000000000000000#32] = .ok (.ret, []) := by decide

/-- R115, R116, R118: phase bits 27:24, tag bits 15:0, 64-bit operands with the low word first. -/
theorem test_decode_scheduler_commands :
    decode [0b00110001000000000000000000000001#32, 0x00000002#32, 0x80000000#32] =
      .ok (.schedule 0x8000000000000002#64 1#4 1#16, []) ∧
    decode [0b01000000000000000000000000000000#32, 0x00000003#32, 0x00000001#32, 0x50000000#32] =
      .ok (.cancel 0x0000000100000003#64, [0x50000000#32]) ∧
    decode [0b01101000000000000000000000000001#32] = .ok (.advance 0x8000001#28, []) := by decide

/-- R119 to R121: active bit 12, line bit 8, source bits 3:0; byte bits 7:0; present, EXROM, GAME bits 2, 1, 0. -/
theorem test_decode_line_and_configuration_commands :
    decode [0b10000000000000000001000100000010#32] = .ok (.assert .nmi 2#4 true, []) ∧
    decode [0b10000000000000000000000000001111#32] = .ok (.assert .irq 15#4 false, []) ∧
    decode [0b10010000000000000000000100000000#32] = .ok (.sample .nmi, []) ∧
    decode [0b10100000000000000000000100000000#32] = .ok (.ack, []) ∧
    decode [0b10110000000000000000000010000001#32] = .ok (.setbus 0x81#8, []) ∧
    decode [0b11000000000000000000000000000110#32] = .ok (.cart true true false, []) := by decide

/-- R122: the four reserved OPs. -/
theorem test_decode_reserved_ops :
    decode [0b00000000000000000000000000000001#32] = .ok (.reservedOp0 1#28, []) ∧
    decode [0b11010000000000000000000000000010#32] = .ok (.reservedOpD 2#28, []) ∧
    decode [0b11100000000000000000000000000100#32] = .ok (.reservedOpE 4#28, []) ∧
    decode [0b11110001000000000000000000000001#32] = .ok (.reservedOpF 0x1000001#28, []) := by decide

/-- R122 and the vectors V-D5 to V-D16: each illegal encoding by its reason. -/
theorem test_decode_illegal_words :
    decodeWords 0x1001A000#32 0#32 0#32 = .error .reservedBits ∧
    decodeWords 0x2155A000#32 0#32 0#32 = .error .reservedBits ∧
    decodeWords 0x30010001#32 1#32 0#32 = .error .reservedBits ∧
    decodeWords 0x40000001#32 0#32 0#32 = .error .reservedBits ∧
    decodeWords 0x70000001#32 0#32 0#32 = .error .reservedBits ∧
    decodeWords 0x80001100#32 0#32 0#32 = .error .assertSourceZero ∧
    decodeWords 0x80003101#32 0#32 0#32 = .error .reservedBits ∧
    decodeWords 0x90001000#32 0#32 0#32 = .error .reservedBits ∧
    decodeWords 0xA0000000#32 0#32 0#32 = .error .ackIrq ∧
    decodeWords 0xB0000142#32 0#32 0#32 = .error .reservedBits ∧
    decodeWords 0xC0000002#32 0#32 0#32 = .error .cartLines ∧
    decodeWords 0xC0000008#32 0#32 0#32 = .error .reservedBits := by decide

/-- A `SCHEDULE` whose extension words are not all there is no command yet (R112). -/
theorem test_decode_incomplete :
    decode [] = .error .incomplete ∧ decode [0x40000000#32, 0#32] = .error .incomplete := by decide

/-- The rows of the CPU I/O port (R83, R126). -/
theorem test_decode_port_rows :
    rowOf bare 0x10000000#32 = some .readPortDdr ∧ rowOf bare 0x10000001#32 = some .readPortData ∧
    rowOf bare 0x202F0000#32 = some (.writePortDdr 0x2F#8) ∧
    rowOf bare 0x20370001#32 = some (.writePortData 0x37#8) := by decide

/-- The rows of RAM and the ROMs in their modes (R84, R126). -/
theorem test_decode_memory_rows :
    rowOf bare 0x10000002#32 = some (.readRam 0x0002#16) ∧
    rowOf bare 0x20A5A000#32 = some (.writeRam 0xA000#16 0xA5#8) ∧
    rowOf bare 0x1000BFFF#32 = some (.readBasic 0xBFFF#16) ∧
    rowOf bare 0x1000E000#32 = some (.readKernal 0xE000#16) ∧
    rowOf charMap 0x1000D123#32 = some (.readChar 0xD123#16) ∧
    rowOf romWrites 0x2055A000#32 = some (.writeRom 0xA000#16 0x55#8) ∧
    rowOf bare 0x1000D800#32 = some (.readColor 0xD800#16) ∧
    rowOf bare 0x200FDBFF#32 = some (.writeColor 0xDBFF#16 0x0F#8) ∧
    rowOf bare 0x1000DE00#32 = some (.readOpen 0xDE00#16) ∧
    rowOf ultimax 0x20771234#32 = some (.writeOpen 0x1234#16 0x77#8) := by decide

/-- The rows of the external Banks in their modes (R84, R126). -/
theorem test_decode_external_rows :
    rowOf bare 0x1000D3FF#32 = some (.readVic 0xD3FF#16) ∧
    rowOf bare 0x2001D000#32 = some (.writeVic 0xD000#16 0x01#8) ∧
    rowOf bare 0x1000D41B#32 = some (.readSid 0xD41B#16) ∧
    rowOf bare 0x200FD418#32 = some (.writeSid 0xD418#16 0x0F#8) ∧
    rowOf cart8k 0x10008000#32 = some (.readRoml 0x8000#16) ∧
    rowOf ultimax 0x20019FFF#32 = some (.writeRoml 0x9FFF#16 0x01#8) ∧
    rowOf cart16k 0x1000A000#32 = some (.readRomhA 0xA000#16) ∧
    rowOf ultimax 0x1000FFFC#32 = some (.readRomhE 0xFFFC#16) ∧
    rowOf ultimax 0x2002E000#32 = some (.writeRomhE 0xE000#16 0x02#8) ∧
    rowOf cart8k 0x1000DE00#32 = some (.readIo1 0xDE00#16) ∧
    rowOf cart8k 0x2003DEFF#32 = some (.writeIo1 0xDEFF#16 0x03#8) ∧
    rowOf cart8k 0x1000DF00#32 = some (.readIo2 0xDF00#16) ∧
    rowOf cart8k 0x2004DFFF#32 = some (.writeIo2 0xDFFF#16 0x04#8) := by decide

/-- The rows of the chips' registers: reads (R126, 42_timer.md R230; mirrored every 16 bytes). -/
theorem test_decode_chip_read_rows :
    rowOf bare 0x1000DC00#32 = some (.readCiaPr .cia1 0xDC00#16) ∧
    rowOf bare 0x1000DD03#32 = some (.readCiaDdr .cia2 0xDD03#16) ∧
    rowOf bare 0x1000DC06#32 = some (.readCiaTlo .cia1 0xDC06#16) ∧
    rowOf bare 0x1000DD05#32 = some (.readCiaThi .cia2 0xDD05#16) ∧
    rowOf bare 0x1000DC0B#32 = some (.readCiaTod .cia1 0xDC0B#16) ∧
    rowOf bare 0x1000DD0C#32 = some (.readCiaSdr .cia2 0xDD0C#16) ∧
    rowOf bare 0x1000DCFD#32 = some (.readCiaIcr .cia1 0xDCFD#16) ∧
    rowOf bare 0x1000DD0F#32 = some (.readCiaCr .cia2 0xDD0F#16) := by decide

/-- The rows of the chips' registers: writes. -/
theorem test_decode_chip_write_rows :
    rowOf bare 0x20FFDC01#32 = some (.writeCiaPr .cia1 0xDC01#16 0xFF#8) ∧
    rowOf bare 0x20FFDD02#32 = some (.writeCiaDdr .cia2 0xDD02#16 0xFF#8) ∧
    rowOf bare 0x2064DC04#32 = some (.writeCiaTlo .cia1 0xDC04#16 0x64#8) ∧
    rowOf bare 0x2000DD07#32 = some (.writeCiaThi .cia2 0xDD07#16 0x00#8) ∧
    rowOf bare 0x2001DC08#32 = some (.writeCiaTod .cia1 0xDC08#16 0x01#8) ∧
    rowOf bare 0x2001DD0C#32 = some (.writeCiaSdr .cia2 0xDD0C#16 0x01#8) ∧
    rowOf bare 0x2081DC0D#32 = some (.writeCiaIcr .cia1 0xDC0D#16 0x81#8) ∧
    rowOf bare 0x2011DD0E#32 = some (.writeCiaCr .cia2 0xDD0E#16 0x11#8) := by decide

/-- The table's numbering: bit 0 is the header's bit 0, the extension words count on. -/
theorem test_decode_table_words :
    decodeTableWord 32 0x2011DC0E = some (.writeCiaCr .cia1 0xDC0E#16 0x11#8) ∧
    decodeTableWord 96 0x000000000000000230000001 = some (.schedule 2#64 0#4 1#16) ∧
    decodeTableWord 32 0x40000000 = some (.cancel 0#64) ∧
    decodeTableWord 32 0x80000000 = none := by decide

/-! ## One-step tests -/

/-- The state after an instruction; the reset state where it answers none. -/
def after (r : Result) : State :=
  match r with
  | .next t => t
  | .fault _ => State.reset
  | .refused _ => State.reset

/-- The words an instruction emits from a state that has emitted none. -/
def words (r : Result) : List Word := (after r).outputWords

/-- Power-on, with ROM images whose first bytes are those of spec/95_test_vectors.md section 1. -/
def s0 : State :=
  { State.reset with cfg := { Params.default with
      romBasic := [(0, 0x11#8), (0x1FFF, 0x10#8)], romKernal := [(0, 0x22#8), (0x1FFF, 0x21#8)],
      romChar := [(0, 0x33#8), (0xFFF, 0x32#8)] } }

/-- `s0` with a state of CIA1's unit A. -/
def withTa (counter latch : BitVec 16) (tick : Option Handle) (cra : Byte) : State :=
  { s0 with cia1 := { Cia.reset with ta := ⟨counter, latch, tick⟩, cra := cra } }

/-- V-M2: the port's direction register reads back. -/
theorem test_read_port_ddr : words (exec .readPortDdr { s0 with portDdr := 0x2F#8 }) = [0x1000002F#32] := by decide

/-- R186: driven lines read the register, input lines the pins, and bits 2:0 of the pins read 1. -/
theorem test_read_port_data :
    words (exec .readPortData { s0 with portDdr := 0x2F#8, portData := 0x37#8, oracle := [0xFF#8] }) = [0x100000F7#32] ∧
    words (exec .readPortData { s0 with oracle := [0x00#8] }) = [0x10000007#32] := by decide

/-- R187, R78: driving line 2 low (CHAREN 0) gives mode 27; RAM at 0x0000 is not written. -/
theorem test_write_port_ddr :
    (after (exec (.writePortDdr 0x04#8) s0)).mode = 27 ∧
    (after (exec (.writePortDdr 0x04#8) s0)).ram = [] := by decide

/-- V-M4: `WRITE $0001, $06` with DDR 0x2F makes 0xA000 read RAM. -/
theorem test_write_port_data :
    readBank (after (exec (.writePortData 0x06#8) { s0 with portDdr := 0x2F#8 })).mapConfig 0xA000#16 = some .ram := by
  decide

/-- R182: RAM by address. -/
theorem test_read_ram : words (exec (.readRam 0x1234#16) { s0 with ram := [(0x1234, 0x5A#8)] }) = [0x1000005A#32] := by
  decide

/-- R183: a store changes its own byte; a store of what an unlisted cell reads as removes the entry (log 2). -/
theorem test_write_ram :
    (after (exec (.writeRam 0x1000#16 0x55#8) { s0 with ram := [(0x0FFF, 1#8), (0x1001, 2#8)] })).ram =
      [(0x0FFF, 1#8), (0x1000, 0x55#8), (0x1001, 2#8)] ∧
    (after (exec (.writeRam 0x1001#16 0x00#8) { s0 with ram := [(0x0FFF, 1#8), (0x1001, 2#8)] })).ram =
      [(0x0FFF, 1#8)] := by decide

/-- R184: BASIC by `a[12:0]`. -/
theorem test_read_basic :
    words (exec (.readBasic 0xA000#16) s0) = [0x10000011#32] ∧
    words (exec (.readBasic 0xBFFF#16) s0) = [0x10000010#32] := by decide

/-- R184: KERNAL by `a[12:0]`. -/
theorem test_read_kernal :
    words (exec (.readKernal 0xE000#16) s0) = [0x10000022#32] ∧
    words (exec (.readKernal 0xFFFF#16) s0) = [0x10000021#32] := by decide

/-- R184: the character ROM by `a[11:0]`. -/
theorem test_read_char :
    words (exec (.readChar 0xD000#16) s0) = [0x10000033#32] ∧
    words (exec (.readChar 0xDFFF#16) s0) = [0x10000032#32] := by decide

/-- R185: `UNSUPPORTED_OPERATION` is code 0x09. -/
theorem test_write_rom : words (exec (.writeRom 0xA000#16 0x55#8) s0) = [0xFE000009#32] := by decide

/-- R189: the bus byte's high nibble over the stored nibble. -/
theorem test_read_color :
    words (exec (.readColor 0xD801#16) { s0 with color := [(1, 0x5#4)], busByte := 0xA7#8 }) = [0x100000A5#32] := by
  decide

/-- R190: the low nibble, at index `a[9:0]`. -/
theorem test_write_color : (after (exec (.writeColor 0xDBFF#16 0x9C#8) s0)).color = [(1023, 0xC#4)] := by decide

/-- V-M10: the disconnected bus reads the last driven byte. -/
theorem test_read_open : words (exec (.readOpen 0xDF7F#16) { s0 with busByte := 0x42#8 }) = [0x10000042#32] := by decide

/-- R192. -/
theorem test_write_open : after (exec (.writeOpen 0xDE00#16 0xFF#8) s0) = { s0 with output := [.writeAck] } := by decide

/-- R125, R196: Bank codes 1 to 6, the address word, then the oracle's byte. -/
theorem test_read_vic_and_sid :
    words (exec (.readVic 0xD012#16) { s0 with oracle := [0x9B#8] }) = [0xF3000100#32, 0x0000D012#32, 0x1000009B#32] ∧
    words (exec (.readSid 0xD41B#16) { s0 with oracle := [0x7C#8] }) = [0xF3000200#32, 0x0000D41B#32, 0x1000007C#32] := by
  decide

theorem test_read_cartridge_roms :
    words (exec (.readRoml 0x8000#16) { s0 with oracle := [1#8] }) = [0xF3000300#32, 0x00008000#32, 0x10000001#32] ∧
    words (exec (.readRomhA 0xBFFF#16) { s0 with oracle := [2#8] }) = [0xF3000400#32, 0x0000BFFF#32, 0x10000002#32] ∧
    words (exec (.readRomhE 0xFFFC#16) { s0 with oracle := [3#8] }) = [0xF3000400#32, 0x0000FFFC#32, 0x10000003#32] := by
  decide

theorem test_read_cartridge_io :
    words (exec (.readIo1 0xDE01#16) { s0 with oracle := [4#8] }) = [0xF3000500#32, 0x0000DE01#32, 0x10000004#32] ∧
    words (exec (.readIo2 0xDF02#16) { s0 with oracle := [5#8] }) = [0xF3000600#32, 0x0000DF02#32, 0x10000005#32] := by
  decide

/-- R125, R197. -/
theorem test_write_vic_and_sid :
    words (exec (.writeVic 0xD020#16 0x0E#8) s0) = [0xF200010E#32, 0x0000D020#32, 0x20000000#32] ∧
    words (exec (.writeSid 0xD418#16 0x0F#8) s0) = [0xF200020F#32, 0x0000D418#32, 0x20000000#32] := by decide

theorem test_write_cartridge :
    words (exec (.writeRoml 0x8000#16 0x11#8) s0) = [0xF2000311#32, 0x00008000#32, 0x20000000#32] ∧
    words (exec (.writeRomhE 0xE000#16 0x22#8) s0) = [0xF2000422#32, 0x0000E000#32, 0x20000000#32] ∧
    words (exec (.writeIo1 0xDE00#16 0x33#8) s0) = [0xF2000533#32, 0x0000DE00#32, 0x20000000#32] ∧
    words (exec (.writeIo2 0xDF00#16 0x44#8) s0) = [0xF2000644#32, 0x0000DF00#32, 0x20000000#32] := by decide

/-- V-M4: a `READ` and a `WRITE` are routed; the write goes to the RAM under BASIC. -/
theorem test_read_and_write_are_routed :
    words (exec (.read 0xA000#16) s0) = [0x10000011#32] ∧
    (after (exec (.write 0xA000#16 0x55#8) s0)).ram = [(0xA000, 0x55#8)] := by decide

/-- R199, and R200 with R78: EXROM 0 and GAME 0 give mode 7. -/
theorem test_setbus_and_cart :
    (after (exec (.setbus 0x42#8) s0)).busByte = 0x42#8 ∧
    (after (exec (.cart true false false) s0)).mode = 7 := by decide

/-- V-S5: phase 1 with delay 1 gives target 1, and the handle goes out as two words. -/
theorem test_schedule :
    (after (exec (.schedule 1#64 1#4 0x00A1#16) s0)).queue = [⟨1#64, 1, 0#64, .ext 0x00A1#16⟩] ∧
    words (exec (.schedule 1#64 1#4 0x00A1#16) { s0 with nextSeq := 0x100000002#64 }) =
      [0x30000000#32, 0x00000002#32, 0x00000001#32] := by decide

/-- V-S14, V-S15: a negative delay is code 0x02, phase 2 with `NPHASE` 2 code 0x03. -/
theorem test_schedule_stops :
    words (exec (.schedule (-1#64) 0#4 1#16) s0) = [0xFE000002#32] ∧
    words (exec (.schedule 0#64 2#4 1#16) s0) = [0xFE000003#32] := by decide

/-- V-S11, V-S12: a live event goes; a handle never issued is code 0x06. -/
theorem test_cancel :
    (after (exec (.cancel 0#64) { s0 with queue := [⟨5#64, 0, 0#64, .ext 1#16⟩], nextSeq := 1#64 })).queue = [] ∧
    words (exec (.cancel 1#64) { s0 with nextSeq := 1#64 }) = [0xFE000006#32] := by decide

/-- V-D17: `CYCLE` answers the 64-bit cycle, low word first. -/
theorem test_cycle :
    words (exec .cycle { s0 with cycle := 0x10FFFFFFF#64 }) = [0x50000000#32, 0x0FFFFFFF#32, 0x00000001#32] := by decide

/-- R146: the first cycle begins at once, and the sweep has the rest to go. -/
theorem test_advance :
    (after (exec (.advance 3#28) { s0 with cycle := 7#64 })).cycle = 8#64 ∧
    (after (exec (.advance 3#28) { s0 with cycle := 7#64 })).sweep = .sweep 2#64 := by decide

/-- V-S18, V-S19: an `ADVANCE` in a callback is code 0x07, one past the last cycle code 0x04. -/
theorem test_advance_stops :
    words (exec (.advance 1#28) { s0 with sweep := .await 0#64 0#64 }) = [0xFE000007#32] ∧
    words (exec (.advance 1#28) { s0 with cycle := 0xFFFFFFFFFFFFFFFF#64 }) = [0xFE000004#32] := by decide

/-- R152, V-S17: `RETURN` goes on with the sweep; in IDLE it is code 0x08. -/
theorem test_return :
    (after (exec .ret { s0 with sweep := .await 0#64 4#64 })).sweep = .sweep 4#64 ∧
    words (exec .ret s0) = [0xFE000008#32] := by decide

/-- V-S5: at cycle 1 the phase-0 event fires first, though queued later. -/
theorem test_sweep_fires_in_order :
    words (step { s0 with cycle := 1#64, nextSeq := 2#64, sweep := .sweep 0#64, queue :=
      [⟨1#64, 1, 0#64, .ext 0x00A1#16⟩, ⟨1#64, 0, 1#64, .ext 0x00B0#16⟩] }) =
      [0xF10000B0#32, 0x00000001#32, 0x00000000#32] := by decide

/-- R150: with nothing due and no cycles to go, `DONE`. -/
theorem test_sweep_ends :
    words (step { s0 with sweep := .sweep 0#64 }) = [0x60000000#32] ∧
    (after (step { s0 with sweep := .sweep 2#64 })).cycle = 1#64 := by decide

/-- R292, R293: source 2 of the NMI raises the pending edge; source 15 of the IRQ its own level. -/
theorem test_assert :
    (after (exec (.assert .nmi 2#4 true) s0)).nmiPending = true ∧
    levelOf (after (exec (.assert .irq 15#4 true) s0)).irqLevel 15#4 = true ∧
    levelOf (after (exec (.assert .irq 15#4 true) s0)).irqLevel 14#4 = false := by decide

/-- V-A3: no edge while the OR is held at 1. -/
theorem test_assert_without_an_edge :
    (after (exec (.assert .nmi 2#4 true) { s0 with
      nmiLevel := setLevel s0.nmiLevel 1#4 true, nmiPrev := true })).nmiPending = false := by decide

/-- R294: IRQ by level, NMI by the pending edge. -/
theorem test_sample :
    words (exec (.sample .irq) { s0 with irqLevel := setLevel s0.irqLevel 0#4 true }) = [0x90000001#32] ∧
    words (exec (.sample .nmi) { s0 with nmiLevel := setLevel s0.nmiLevel 1#4 true, nmiPrev := true }) =
      [0x90000000#32] := by decide

/-- R295. -/
theorem test_ack :
    (after (exec .ack { s0 with nmiPending := true })).nmiPending = false ∧ words (exec .ack s0) = [0xA0000000#32] := by
  decide

/-- V-D1 to V-D4. -/
theorem test_reserved_ops :
    words (exec (.reservedOp0 0#28) s0) = [0xFE000001#32] ∧ words (exec (.reservedOpD 0#28) s0) = [0xFE000001#32] ∧
    words (exec (.reservedOpE 0#28) s0) = [0xFE000001#32] ∧ words (exec (.reservedOpF 1#28) s0) = [0xFE000001#32] := by
  decide

/-- V-T20: port A, DDR 0x0F, latch 0x5A, pins 0xF0 read 0xFA. -/
theorem test_read_cia_port :
    words (exec (.readCiaPr .cia1 0xDC00#16) { s0 with
      cia1 := { Cia.reset with pra := 0x5A#8, ddra := 0x0F#8 }, oracle := [0xF0#8] }) = [0x100000FA#32] := by decide

/-- V-T21 steps 2 and 3: the side signal follows port B line 4, and goes out only when it changes. -/
theorem test_write_cia_port :
    words (exec (.writeCiaPr .cia1 0xDC01#16 0x10#8) { s0 with
      cia1 := { Cia.reset with ddrb := 0x10#8 }, side := false }) = [0xF4000001#32, 0x20000000#32] ∧
    words (exec (.writeCiaPr .cia1 0xDC01#16 0x10#8) { s0 with
      cia1 := { Cia.reset with prb := 0x10#8, ddrb := 0x10#8 }, side := true }) = [0x20000000#32] := by decide

/-- V-T20 step 4. -/
theorem test_read_cia_ddr :
    words (exec (.readCiaDdr .cia1 0xDC02#16) { s0 with cia1 := { Cia.reset with ddra := 0x0F#8 } }) =
      [0x1000000F#32] := by decide

/-- V-T21 steps 1 and 6: CIA1's port B direction drives the side signal, CIA2's does not. -/
theorem test_write_cia_ddr :
    words (exec (.writeCiaDdr .cia1 0xDC03#16 0x10#8) s0) = [0xF4000000#32, 0x20000000#32] ∧
    words (exec (.writeCiaDdr .cia2 0xDD03#16 0x10#8) s0) = [0x20000000#32] := by decide

/-- V-T2 steps 4 and 5. -/
theorem test_read_cia_timer_bytes :
    words (exec (.readCiaTlo .cia1 0xDC04#16) (withTa 0x1234#16 0xFFFF#16 none 0#8)) = [0x10000034#32] ∧
    words (exec (.readCiaThi .cia1 0xDC05#16) (withTa 0x1234#16 0xFFFF#16 none 0#8)) = [0x10000012#32] := by decide

/-- V-T2 step 1: the low byte goes to the latch only. -/
theorem test_write_cia_timer_low :
    (after (exec (.writeCiaTlo .cia1 0xDC04#16 0x34#8) s0)).cia1.ta = ⟨0xFFFF#16, 0xFF34#16, none⟩ := by decide

/-- V-T2 step 3 and V-T3 step 5: the high byte loads a stopped counter and not a running one. -/
theorem test_write_cia_timer_high :
    (after (exec (.writeCiaThi .cia1 0xDC05#16 0x12#8) (withTa 0xFFFF#16 0xFF34#16 none 0#8))).cia1.ta =
      ⟨0x1234#16, 0x1234#16, none⟩ ∧
    (after (exec (.writeCiaThi .cia1 0xDC05#16 0x01#8) (withTa 4#16 5#16 (some 1#64) 1#8))).cia1.ta =
      ⟨0x0004#16, 0x0105#16, some 1#64⟩ := by decide

/-- V-T18, V-T19. -/
theorem test_cia_unmodelled_registers :
    words (exec (.readCiaTod .cia1 0xDC08#16) s0) = [0xFE000081#32] ∧
    words (exec (.writeCiaTod .cia1 0xDC08#16 1#8) s0) = [0xFE000081#32] ∧
    words (exec (.readCiaSdr .cia2 0xDD0C#16) s0) = [0xFE000081#32] ∧
    words (exec (.writeCiaSdr .cia2 0xDD0C#16 1#8) s0) = [0xFE000081#32] := by decide

/-- V-I2 step 7: flag and output read as 0x81, and the line drops. -/
theorem test_read_cia_icr :
    words (exec (.readCiaIcr .cia1 0xDC0D#16) { s0 with
      cia1 := { Cia.reset with flags := 1#5, ir := true, mask := 1#5 },
      irqLevel := setLevel s0.irqLevel 0#4 true }) = [0x10000081#32] ∧
    (after (exec (.readCiaIcr .cia1 0xDC0D#16) { s0 with
      cia1 := { Cia.reset with flags := 1#5, ir := true, mask := 1#5 },
      irqLevel := setLevel s0.irqLevel 0#4 true })).irqOut = false := by decide

/-- V-I2 step 5: enabling a set flag asserts the line at once. -/
theorem test_write_cia_icr :
    (after (exec (.writeCiaIcr .cia1 0xDC0D#16 0x81#8) { s0 with cia1 := { Cia.reset with flags := 1#5 } })).irqOut = true ∧
    (after (exec (.writeCiaIcr .cia1 0xDC0D#16 0x7F#8) { s0 with cia1 := { Cia.reset with mask := 31#5 } })).cia1.mask =
      0#5 := by decide

/-- V-T5: bits other than START, CNT input and LOAD read back. -/
theorem test_read_cia_control :
    words (exec (.readCiaCr .cia1 0xDC0F#16) { s0 with cia1 := { Cia.reset with crb := 0xEE#8 } }) = [0x100000EE#32] := by
  decide

/-- V-T14, V-T4: a start queues one tick; a force load stores no LOAD bit. -/
theorem test_write_cia_control_starts :
    (after (exec (.writeCiaCr .cia1 0xDC0E#16 0x01#8) s0)).queue = [⟨1#64, 0, 0#64, .tick .cia1 .a⟩] ∧
    (after (exec (.writeCiaCr .cia1 0xDC0E#16 0x11#8) (withTa 3#16 5#16 (some 2#64) 1#8))).cia1.ta =
      ⟨5#16, 5#16, some 2#64⟩ ∧
    (after (exec (.writeCiaCr .cia1 0xDC0E#16 0x11#8) (withTa 3#16 5#16 (some 2#64) 1#8))).cia1.cra = 0x01#8 := by decide

/-- V-T7, V-T8: timer B on the CNT pin is refused, 0x82. -/
theorem test_write_cia_control_on_cnt :
    words (exec (.writeCiaCr .cia1 0xDC0F#16 0x21#8) s0) = [0xFE000082#32] ∧
    words (exec (.writeCiaCr .cia2 0xDD0F#16 0x61#8) s0) = [0xFE000082#32] := by decide

/-- V-T11: the tick that expires a one-shot unit stops it at 0, with nothing queued. -/
theorem test_one_shot_expiry :
    let t := after (step { withTa 1#16 3#16 (some 0#64) 0x09#8 with
      cycle := 1#64, nextSeq := 1#64, sweep := .sweep 0#64, queue := [⟨1#64, 0, 0#64, .tick .cia1 .a⟩] })
    t.cia1.ta = ⟨0#16, 3#16, none⟩ ∧ t.cia1.cra = 0x08#8 ∧ t.cia1.flags = 1#5 ∧ t.queue = [] := by decide

/-- V-T15 step 7: an expiry of unit A ticks unit B when CRB selects it. -/
theorem test_cascade :
    let t := after (step { s0 with
      cia1 := { Cia.reset with
        ta := ⟨1#16, 2#16, some 0#64⟩, tb := ⟨2#16, 2#16, none⟩, cra := 0x01#8, crb := 0x41#8 },
      cycle := 2#64, nextSeq := 1#64, sweep := .sweep 0#64, queue := [⟨2#64, 0, 0#64, .tick .cia1 .a⟩] })
    t.cia1.ta = ⟨2#16, 2#16, some 1#64⟩ ∧ t.cia1.tb = ⟨1#16, 2#16, none⟩ ∧
    t.queue = [⟨3#64, 0, 1#64, .tick .cia1 .a⟩] := by decide

/-- R122, R126: an illegal command is taken and stops the core; the step after it answers the stop. -/
theorem test_step_takes_an_illegal_command :
    words (step (s0.withFetchWord 32 0xA0000000)) = [0xFE000001#32] ∧
    step (after (step (s0.withFetchWord 32 0xA0000000))) = .fault (.stopped .illegalCommand) :=
  ⟨by decide, rfl⟩

/-- The first command after reset runs: V-S1. -/
theorem test_step_runs_the_first_command :
    words (step (State.reset.withFetchWord 32 0x50000000)) = [0x50000000#32, 0x00000000#32, 0x00000000#32] := by decide

/-! ## Witnesses: the hypotheses of each statement, met together -/

/-- `s0` with one event, which is live. -/
def withEvent (e : Event) : State := { s0 with queue := [e], nextSeq := e.seq + 1#64 }

/-- An external event of handle 0 at cycle 5. -/
def evExt : Event := ⟨5#64, 0, 0#64, .ext 1#16⟩

/-- A tick event of CIA1's unit A, of handle 0 at cycle 5. -/
def evTick : Event := ⟨5#64, 0, 0#64, .tick .cia1 .a⟩

/-- `s0` with CIA1's unit A running and its tick queued. -/
def running : State :=
  { withTa 2#16 2#16 (some 0#64) 1#8 with queue := [evTick], nextSeq := 1#64 }

theorem canonical_s0 : StorageCanonical s0 := by unfold StorageCanonical; decide

theorem ordered_withEvent (e : Event) (h : e.seq < e.seq + 1#64) : QueueOrdered (withEvent e) := by
  constructor
  · exact List.pairwise_singleton _ _
  · intro f hf
    obtain rfl := List.mem_singleton.1 hf
    exact h

theorem ordered_running : QueueOrdered running := by
  constructor
  · exact List.pairwise_singleton _ _
  · intro f hf
    obtain rfl := List.mem_singleton.1 hf
    decide

/-- `EncodedCommandsDecode`. -/
theorem witness_encoded_commands : (Instr.assert .nmi 15#4 true).wf = true ∧ (Instr.assert .nmi 15#4 true).isCommand = true ∧
    (Instr.cart false true true).wf = true ∧ (Instr.cart false true true).isCommand = true := by decide

/-- `EncodedRowsReachTheirRow`: the ends of a window, and a row of a custom table. -/
theorem witness_encoded_rows :
    (Instr.readBasic 0xBFFF#16).wf = true ∧ rowSelected bare (.readBasic 0xBFFF#16) = true ∧
    (Instr.writeRomhE 0xE000#16 1#8).wf = true ∧ rowSelected ultimax (.writeRomhE 0xE000#16 1#8) = true ∧
    (Instr.writeRom 0x0002#16 1#8).wf = true ∧ rowSelected romWrites (.writeRom 0x0002#16 1#8) = true ∧
    (Instr.readCiaCr .cia2 0xDDFF#16).wf = true ∧ rowSelected bare (.readCiaCr .cia2 0xDDFF#16) = true := by decide

/-- `DecodedWordsEncode`. -/
theorem witness_decoded_words :
    decode [0x40000000#32, 3#32, 1#32, 7#32] = .ok (.cancel 0x100000003#64, [7#32]) := by decide

/-- `OperandsAssembled`: one for each arm. -/
theorem witness_operands :
    decodeWords 0x1000FFFF#32 0#32 0#32 = .ok (.read 0xFFFF#16) ∧
    decodeWords 0x20FFFFFF#32 0#32 0#32 = .ok (.write 0xFFFF#16 0xFF#8) ∧
    decodeWords 0x3F00FFFF#32 0xFFFFFFFF#32 0xFFFFFFFF#32 = .ok (.schedule (-1#64) 15#4 0xFFFF#16) ∧
    decodeWords 0x40000000#32 0xFFFFFFFF#32 0#32 = .ok (.cancel 0xFFFFFFFF#64) ∧
    decodeWords 0x6FFFFFFF#32 0#32 0#32 = .ok (.advance 0xFFFFFFF#28) ∧
    decodeWords 0x8000110F#32 0#32 0#32 = .ok (.assert .nmi 15#4 true) ∧
    decodeWords 0x90000000#32 0#32 0#32 = .ok (.sample .irq) ∧
    decodeWords 0xB00000FF#32 0#32 0#32 = .ok (.setbus 0xFF#8) ∧
    decodeWords 0xC0000003#32 0#32 0#32 = .ok (.cart false true true) := by decide

/-- `IllegalCommandStops`: a state that takes an illegal header word, in IDLE and in a callback. -/
theorem witness_illegal_command :
    (s0.withFetchWord 32 0xA0000000).accepts = true ∧
    fetch (s0.withFetchWord 32 0xA0000000).commands = some ⟨0xA0000000#32, 0#32, 0#32, []⟩ ∧
    illegalHeader 0xA0000000#32 ∧
    ({ s0 with sweep := .await 0#64 0#64, commands := [0x80001100#32] } : State).accepts = true ∧
    fetch [0x80001100#32] = some ⟨0x80001100#32, 0#32, 0#32, []⟩ ∧ illegalHeader 0x80001100#32 ∧
    isReservedOp (.reservedOpF 0#28) = true := by
  refine ⟨by decide, by decide, ?_, by decide, by decide, ?_, by decide⟩ <;> simp [illegalHeader, anyBit]

/-- `IllegalCommandStops` and `LegalWordsAreCommands`: a word of each OP at the edge of R122. -/
theorem witness_illegal_header :
    illegalHeader 0x18000000#32 ∧ illegalHeader 0x21000000#32 ∧ illegalHeader 0x30800000#32 ∧
    illegalHeader 0x48000000#32 ∧ illegalHeader 0x50000001#32 ∧ illegalHeader 0x78000000#32 ∧
    illegalHeader 0x80002001#32 ∧ illegalHeader 0x90000200#32 ∧ illegalHeader 0xA0000101#32 ∧
    illegalHeader 0xB0000100#32 ∧ illegalHeader 0xC0000001#32 ∧ illegalHeader 0xD0000000#32 := by
  simp [illegalHeader, anyBit]

theorem witness_legal_header :
    ¬ illegalHeader 0x1000FFFF#32 ∧ ¬ illegalHeader 0x20FFFFFF#32 ∧ ¬ illegalHeader 0x3F00FFFF#32 ∧
    ¬ illegalHeader 0x40000000#32 ∧ ¬ illegalHeader 0x50000000#32 ∧ ¬ illegalHeader 0x6FFFFFFF#32 ∧
    ¬ illegalHeader 0x70000000#32 ∧ ¬ illegalHeader 0x8000110F#32 ∧ ¬ illegalHeader 0x90000100#32 ∧
    ¬ illegalHeader 0xA0000100#32 ∧ ¬ illegalHeader 0xB00000FF#32 ∧ ¬ illegalHeader 0xC0000003#32 ∧
    ¬ illegalHeader 0xC0000004#32 := by
  simp [illegalHeader, anyBit]

/-- `StepRunsDecodedInstruction`: in IDLE and in a callback. -/
theorem witness_step_runs :
    (s0.withFetchWord 32 0x2011DC0E).accepts = true ∧
    decode (s0.withFetchWord 32 0x2011DC0E).commands = .ok (.write 0xDC0E#16 0x11#8, []) ∧
    ({ s0 with sweep := .await 0#64 0#64, commands := [0x70000000#32] } : State).accepts = true ∧
    decode [0x70000000#32] = .ok (.ret, []) := by decide

/-- `StepsWithoutACommand`: a state for each clause. -/
theorem witness_steps_without_command :
    (s0.raiseFault .badHandle).fault = some .badHandle ∧
    (s0.raiseRefusal .cntMode).fault = none ∧ (s0.raiseRefusal .cntMode).refusal = some .cntMode ∧
    ({ s0 with sweep := .sweep 1#64 } : State).stopped = false ∧
    ({ s0 with commands := [0x40000000#32, 0#32] } : State).accepts = true ∧
    fetch [0x40000000#32, 0#32] = none := by decide

/-- `PowerOnValues` and the first clause of `PowerOnRejectsBadParameters`: the ends of the ranges. -/
theorem witness_power_on_valid :
    paramsValid Params.default = true ∧
    paramsValid { Params.default with nphase := 16, timerPhase := 15, timerRate1 := 2 ^ 32 - 1 } = true ∧
    paramsValid { Params.default with nphase := 1, busInit := 0xFF#8, ramInit := [(0x0000#16, 1#8), (0x0000#16, 2#8)] } =
      true := by decide

/-- `PowerOnRejectsBadParameters`: each parameter out of its range. -/
theorem witness_power_on_invalid :
    (State.powerOn { Params.default with nphase := 17 }).fault ≠ none ∧
    (State.powerOn { Params.default with nphase := 0 }).fault ≠ none ∧
    (State.powerOn { Params.default with timerPhase := 2 }).fault ≠ none ∧
    (State.powerOn { Params.default with timerRate1 := 0 }).fault ≠ none ∧
    (State.powerOn { Params.default with timerRate2 := 2 ^ 32 }).fault ≠ none ∧
    (State.powerOn { Params.default with plaWrite := some [] }).fault ≠ none := by decide

/-- `TableCheckBindsEveryAddress`: a custom table that passes, and one that binds no Bank. -/
theorem witness_tables :
    tablesValid none none = true ∧ tablesValid (some (uniform .ram)) (some (uniform .basic)) = true ∧
    tablesValid (some (uniform .port)) none = false ∧ tablesValid (some ioEverywhere) none = true := by
  refine ⟨tablesValid_default, by decide, by decide, by decide⟩

/-- R82 (log 22): the default write table follows a given read table in region 0xD, in mode 31 where R80's
would be `IO`, and in mode 28 where it would be RAM. -/
theorem test_default_write_follows_read_table :
    writeBank { MapConfig.powerOn with plaRead := some (uniform .basic) } 0xD800#16 = some .ram ∧
    writeBank { MapConfig.powerOn with plaRead := some ioEverywhere, portDdr := 0x03#8 } 0xD800#16 = some .color ∧
    readBank { MapConfig.powerOn with plaRead := some ioEverywhere, portDdr := 0x03#8 } 0xD800#16 = some .openBus := by
  decide

/-- `DefaultMapOfEveryMode`: both kinds of address, at the edge. -/
theorem witness_default_map :
    s0.cfg.plaRead = none ∧ s0.cfg.plaWrite = none ∧ isPortAddr 0x0001#16 = true ∧ isPortAddr 0x0002#16 = false ∧
    isPortAddr 0xFFFF#16 = false := by decide

/-- `UltimaxIgnoresThePort`. -/
theorem witness_ultimax :
    ultimax.plaRead = none ∧ ultimax.plaWrite = none ∧ ultimax.cart.exrom = true ∧ ultimax.cart.game = false := by decide

/-- `OnlyPortAndCartRebind`: a write next to the port, and a step. -/
theorem witness_rebinds :
    (∃ t, exec (.write 0x0002#16 1#8) s0 = .next t) ∧ rebinds (.write 0x0002#16 1#8) = false ∧
    ∃ t, step s0 = .next t := ⟨⟨_, rfl⟩, rfl, ⟨_, rfl⟩⟩

/-- `RamReadAndWrite` and `ColourRamReadAndWrite`. -/
theorem witness_storage_canonical :
    StorageCanonical s0 ∧
    StorageCanonical { s0 with ram := [(0, 1#8), (0xFFFF, 2#8)], color := [(0, 1#4), (0x3FF, 2#4)] } := by
  refine ⟨canonical_s0, ?_⟩
  unfold StorageCanonical
  decide

/-- `RomAccess`: a `WRITE` that a custom table sends to a ROM, and the default write table. -/
theorem witness_rom_access :
    writeBank romWrites 0xA000#16 = some .basic ∧ s0.cfg.plaWrite = none := by decide

/-- `DisconnectedBus`: the ends of the I/O pages without a cartridge. -/
theorem witness_disconnected_bus :
    readBank s0.mapConfig 0xDE00#16 = some .openBus ∧ writeBank s0.mapConfig 0xDFFF#16 = some .openBus := by decide

/-- `ExternalAccess`. -/
theorem witness_external_access (a : Addr) (v : Byte) :
    ((.readIo2 a, 6) : Instr × Nat) ∈ [(Instr.readVic a, 1), (.readSid a, 2), (.readRoml a, 3), (.readRomhA a, 4),
      (.readRomhE a, 4), (.readIo1 a, 5), (.readIo2 a, 6)] ∧
    ((.writeVic a v, 1) : Instr × Nat) ∈ [(Instr.writeVic a v, 1), (.writeSid a v, 2), (.writeRoml a v, 3),
      (.writeRomhE a v, 4), (.writeIo1 a v, 5), (.writeIo2 a v, 6)] := by simp

/-- `StorageFrame`: a store, the byte beside it, and the nibble beside a stored nibble. -/
theorem witness_storage_frame :
    StorageCanonical s0 ∧ (∃ t, exec (.write 0x0002#16 1#8) s0 = .next t) ∧
    ramStore s0 (.write 0x0002#16 1#8) = some 0x0002#16 ∧ ramStore s0 (.write 0x0002#16 1#8) ≠ some 0x0003#16 ∧
    (∃ t, exec (.write 0xD800#16 1#8) s0 = .next t) ∧ colorStore s0 (.write 0xD800#16 1#8) ≠ some 1#10 :=
  ⟨canonical_s0, ⟨_, rfl⟩, by decide, by decide, ⟨_, rfl⟩, by decide⟩

/-- `WriteThenRead`: RAM over RAM, under BASIC, under the KERNAL and, in mode 27, under CHAR. -/
theorem witness_write_then_read :
    StorageCanonical s0 ∧ (∃ t, exec (.write 0x0002#16 1#8) s0 = .next t) ∧ (∃ t, exec (.write 0xA000#16 1#8) s0 = .next t) ∧
    (∃ t, exec (.write 0xFFFF#16 1#8) s0 = .next t) ∧
    writeBank s0.mapConfig 0x0002#16 = some .ram ∧ readBank s0.mapConfig 0x0002#16 = some .ram ∧
    writeBank s0.mapConfig 0xA000#16 = some .ram ∧ readBank s0.mapConfig 0xA000#16 = some .basic ∧
    writeBank s0.mapConfig 0xFFFF#16 = some .ram ∧ readBank s0.mapConfig 0xFFFF#16 = some .kernal ∧
    (let s := { s0 with portDdr := 0x07#8, portData := 0x03#8 }
     StorageCanonical s ∧ (∃ t, exec (.write 0xDFFF#16 1#8) s = .next t) ∧
     writeBank s.mapConfig 0xDFFF#16 = some .ram ∧ readBank s.mapConfig 0xDFFF#16 = some .char) :=
  ⟨canonical_s0, ⟨_, rfl⟩, ⟨_, rfl⟩, ⟨_, rfl⟩, by decide, by decide, by decide, by decide, by decide, by decide,
    canonical_s0, ⟨_, rfl⟩, by decide⟩

/-- `BusAccessesComplete`: the register offsets beside the refused ones, any other Bank, and a control
register: a start at the last cycle that admits it, a stop, and CRB set to count unit A's expiries. -/
theorem witness_bus_accesses :
    (readBank s0.mapConfig 0xDC07#16).isSome = true ∧ ¬ refusedOffset 0xDC07#16 ∧ ¬ refusedOffset 0xDC0D#16 ∧
    writeBank s0.mapConfig 0xDC0D#16 = some .cia1 ∧ 0xDC0D % 16 < 0xE ∧
    writeBank s0.mapConfig 0xE000#16 = some .ram ∧
    writeBank s0.mapConfig 0xDC0E#16 = some (chipBank .cia1) ∧ 0xE ≤ 0xDC0E % 16 ∧
    ¬ ((0x01#8).getLsbD 0 = true ∧ (0x01#8).getLsbD 5 = true) ∧
    ({ s0 with cycle := -2#64 } : State).cycle.toNat + timerRate s0.cfg .cia1 ≤ 2 ^ 64 - 1 ∧
    ({ s0 with nextSeq := -2#64 } : State).nextSeq.toNat < 2 ^ 64 - 1 ∧ (0x00#8).getLsbD 0 = false ∧
    writeBank s0.mapConfig 0xDD0F#16 = some (chipBank .cia2) ∧
    ¬ ((0x41#8).getLsbD 0 = true ∧ (0x41#8).getLsbD 5 = true) ∧ (0x41#8).toNat / 32 % 4 ≠ 0 := by
  unfold refusedOffset; decide

/-- `ScheduleQueuesAnEvent`: each clause at its edge. -/
theorem witness_schedule :
    (-1#64).toInt < 0 ∧ s0.cfg.nphase ≤ (2#4).toNat ∧ 0 ≤ (0x7FFFFFFFFFFFFFFF#64).toInt ∧ (1#4).toNat < s0.cfg.nphase ∧
    2 ^ 64 - 1 < ({ s0 with cycle := -1#64 } : State).cycle.toNat + (1#64).toNat ∧
    ({ s0 with cycle := -2#64 } : State).cycle.toNat + (1#64).toNat ≤ 2 ^ 64 - 1 ∧
    ({ s0 with nextSeq := -1#64 } : State).nextSeq.toNat = 2 ^ 64 - 1 ∧
    ({ s0 with nextSeq := -2#64 } : State).nextSeq.toNat < 2 ^ 64 - 1 := by decide

/-- `CancelCases`: a handle not issued, one gone, a live external event, a live tick. -/
theorem witness_cancel :
    QueueOrdered (withEvent evExt) ∧ (withEvent evExt).nextSeq.toNat ≤ (1#64).toNat ∧
    QueueOrdered (withEvent evTick) ∧ evExt ∈ (withEvent evExt).queue ∧ evTick ∈ (withEvent evTick).queue ∧
    evExt.owner = .ext 1#16 ∧ evTick.owner = .tick .cia1 .a ∧
    QueueOrdered { s0 with nextSeq := 1#64 } ∧ (0#64).toNat < ({ s0 with nextSeq := 1#64 } : State).nextSeq.toNat := by
  refine ⟨ordered_withEvent _ (by decide), by decide, ordered_withEvent _ (by decide), by decide, by decide, rfl, rfl,
    ⟨List.Pairwise.nil, fun e he => by cases he⟩, by decide⟩

/-- `AdvanceStartsTheSweep`: each clause. -/
theorem witness_advance :
    ({ s0 with sweep := .sweep 0#64 } : State).sweep ≠ .idle ∧ s0.sweep = .idle ∧ (0#28).toNat = 0 ∧
    2 ^ 64 - 1 < ({ s0 with cycle := -1#64 } : State).cycle.toNat + (1#28).toNat ∧
    ({ s0 with cycle := -2#64 } : State).cycle.toNat + (1#28).toNat ≤ 2 ^ 64 - 1 := by decide

/-- `ReturnResumesTheSweep`: both clauses. -/
theorem witness_return :
    ({ s0 with sweep := .await 0#64 0#64 } : State).sweep = .await 0#64 0#64 ∧
    (∀ h rem, s0.sweep ≠ .await h rem) ∧ (∀ h rem, ({ s0 with sweep := .sweep 0#64 } : State).sweep ≠ .await h rem) := by
  refine ⟨rfl, fun h rem hc => ?_, fun h rem hc => ?_⟩ <;> cases hc

/-- `SweepFiresTheLeastDueEvent`: due exactly now, an external event and a tick. -/
theorem witness_sweep_fires (e : Event) (h : e = evExt ∨ e = evTick) :
    let s := { withEvent e with cycle := 5#64, sweep := .sweep 0#64 }
    s.stopped = false ∧ s.sweep = .sweep 0#64 ∧ QueueOrdered s ∧ e ∈ s.queue ∧ e.target.toNat ≤ s.cycle.toNat ∧
    ∀ f ∈ s.queue, f.target.toNat ≤ s.cycle.toNat → f ≠ e →
      e.target.toNat < f.target.toNat ∨
      (e.target = f.target ∧ (e.phase < f.phase ∨ (e.phase = f.phase ∧ e.seq.toNat < f.seq.toNat))) := by
  refine ⟨rfl, rfl, ordered_withEvent e ?_, List.mem_singleton_self e, ?_, fun f hf _ hne => ?_⟩
  · rcases h with rfl | rfl <;> decide
  · rcases h with rfl | rfl <;> decide
  · exact absurd (List.mem_singleton.1 hf) hne

/-- `SweepEndsWhenNothingIsDue`: an event one cycle away; both clauses, at the last cycle. -/
theorem witness_sweep_ends :
    (∀ e ∈ (withEvent evExt).queue, ({ withEvent evExt with cycle := 4#64 } : State).cycle.toNat < e.target.toNat) ∧
    ({ s0 with sweep := .sweep 0#64 } : State).stopped = false ∧
    ({ s0 with cycle := -2#64, sweep := .sweep 1#64 } : State).cycle.toNat + (1#64).toNat ≤ 2 ^ 64 - 1 := by
  refine ⟨fun e he => ?_, by decide, by decide⟩
  obtain rfl := List.mem_singleton.1 he
  decide

/-- `AdvanceWithNothingDue`: an event one cycle beyond. -/
theorem witness_advance_nothing_due :
    (withEvent evExt).stopped = false ∧ (withEvent evExt).sweep = .idle ∧
    (withEvent evExt).cycle.toNat + (4#28).toNat ≤ 2 ^ 64 - 1 ∧
    ∀ e ∈ (withEvent evExt).queue, (withEvent evExt).cycle.toNat + (4#28).toNat < e.target.toNat := by
  refine ⟨rfl, rfl, by decide, fun e he => ?_⟩
  obtain rfl := List.mem_singleton.1 he
  decide

/-- `NoSynchronousFiring`: a `SCHEDULE` with delay 0. -/
theorem witness_no_synchronous_firing :
    (∃ t, exec (.schedule 0#64 0#4 1#16) s0 = .next t) ∧ (∀ n, Instr.schedule 0#64 0#4 1#16 ≠ .advance n) ∧
    Instr.schedule 0#64 0#4 1#16 ≠ .ret := 
  ⟨⟨_, rfl⟩, (fun _ h => nomatch h), (fun h => nomatch h)⟩

/-- `TimeOnlyMovesByAdvance`: the last cycle, in a sweep and in a callback; and an `ADVANCE` that starts. -/
theorem witness_time :
    (∃ t, exec .cycle s0 = .next t) ∧ (∀ n, Instr.cycle ≠ .advance n) ∧
    SweepFits { s0 with cycle := -2#64, sweep := .sweep 1#64 } ∧
    (∃ t, step { s0 with cycle := -2#64, sweep := .sweep 1#64 } = .next t) ∧
    SweepFits { s0 with sweep := .await 0#64 (-1#64) } ∧
    (∃ t, step { s0 with sweep := .await 0#64 (-1#64) } = .next t) ∧
    s0.sweep = .idle ∧ s0.stopped = false ∧ ∃ t, exec (.advance 0xFFFFFFF#28) s0 = .next t ∧ t.stopped = false := by
  refine ⟨⟨_, rfl⟩, fun _ h => ?_, ?_, ⟨_, rfl⟩, ?_, ⟨_, rfl⟩, rfl, rfl, ⟨_, rfl, rfl⟩⟩
  · cases h
  · unfold SweepFits; decide
  · unfold SweepFits; decide

/-- `EventsFireAtMostOnce`: an event due, after another has fired. -/
theorem witness_fire_once :
    let s := { withEvent ⟨5#64, 0, 1#64, .ext 1#16⟩ with
      cycle := 5#64, sweep := .sweep 0#64, output := [.fire 0#64 1#16] }
    QueueOrdered s ∧ FiredOnce s ∧ ∃ t, step s = .next t := by
  refine ⟨ordered_withEvent ⟨5#64, 0, 1#64, .ext 1#16⟩ (by decide), ⟨?_, ?_⟩, ⟨_, rfl⟩⟩
  · intro h hh
    obtain rfl : h = 0#64 := by simpa [firedHandles] using hh
    refine ⟨by decide, fun e he => ?_⟩
    obtain rfl := List.mem_singleton.1 he
    decide
  · simp [firedHandles]

/-- `TimerRegisterReads`: both registers of each row; and a state with legal registers. -/
theorem witness_timer_reads :
    (Instr.readCiaDdr .cia1 0xDC02#16).wf = true ∧ (Instr.readCiaDdr .cia2 0xDD03#16).wf = true ∧
    (Instr.readCiaTlo .cia1 0xDC04#16).wf = true ∧ (Instr.readCiaTlo .cia2 0xDD06#16).wf = true ∧
    (Instr.readCiaThi .cia1 0xDC05#16).wf = true ∧ (Instr.readCiaThi .cia2 0xDD07#16).wf = true ∧
    (Instr.readCiaCr .cia1 0xDC0E#16).wf = true ∧ (Instr.readCiaCr .cia2 0xDDFF#16).wf = true ∧ RegistersLegal s0 := by
  refine ⟨by decide, by decide, by decide, by decide, by decide, by decide, by decide, by decide, fun c => ?_⟩
  unfold ControlLegal
  cases c <;> decide

/-- `TimerPortReads` and `TimerPortWrites`: both ports of both chips. -/
theorem witness_timer_ports :
    (Instr.readCiaPr .cia1 0xDC00#16).wf = true ∧ (Instr.readCiaPr .cia2 0xDDF1#16).wf = true ∧
    (Instr.writeCiaPr .cia2 0xDD00#16 1#8).wf = true ∧ (Instr.writeCiaDdr .cia2 0xDD03#16 1#8).wf = true ∧
    (Instr.writeCiaPr .cia1 0xDC00#16 1#8).wf = true ∧ 0xDC00 % 16 = 0 ∧
    (Instr.writeCiaPr .cia1 0xDC01#16 1#8).wf = true ∧ 0xDC01 % 16 = 1 ∧
    (Instr.writeCiaDdr .cia1 0xDC02#16 1#8).wf = true ∧ 0xDC02 % 16 = 2 ∧
    (Instr.writeCiaDdr .cia1 0xDC03#16 1#8).wf = true ∧ 0xDC03 % 16 = 3 := by decide

/-- `TimerLatchWrites`: both units. -/
theorem witness_timer_latch :
    (Instr.writeCiaTlo .cia1 0xDC04#16 1#8).wf = true ∧ (Instr.writeCiaThi .cia1 0xDC05#16 1#8).wf = true ∧
    TimerId.a = (if (0xDC05#16 : Addr).toNat % 16 < 6 then .a else .b) ∧
    (Instr.writeCiaTlo .cia1 0xDC06#16 1#8).wf = true ∧ (Instr.writeCiaThi .cia1 0xDC07#16 1#8).wf = true ∧
    TimerId.b = (if (0xDC06#16 : Addr).toNat % 16 < 6 then .a else .b) := by decide

/-- `ControlRegisterWrite`: refused; running with a tick and without; stopping with a tick and without; the
overflows. -/
theorem witness_control_write :
    (Instr.writeCiaCr .cia1 0xDC0E#16 0x21#8).wf = true ∧ (Instr.writeCiaCr .cia1 0xDC0F#16 0x41#8).wf = true ∧
    ((0x21#8).getLsbD 0 = true ∧ (0x21#8).getLsbD 5 = true) ∧
    ((0x01#8).getLsbD 0 = true ∧ (0x01#8).toNat / 32 % 4 = 0) ∧ ¬ (0x41#8).toNat / 32 % 4 = 0 ∧
    (running.cia1.timer .a).tick = some 0#64 ∧ (s0.cia1.timer .a).tick = none ∧
    2 ^ 64 - 1 < ({ s0 with cycle := -1#64 } : State).cycle.toNat + timerRate s0.cfg .cia1 ∧
    ({ s0 with cycle := -2#64 } : State).cycle.toNat + timerRate s0.cfg .cia1 ≤ 2 ^ 64 - 1 ∧
    ({ s0 with nextSeq := -1#64 } : State).nextSeq.toNat = 2 ^ 64 - 1 ∧
    ({ s0 with nextSeq := -2#64 } : State).nextSeq.toNat < 2 ^ 64 - 1 := by decide

/-- `IcrReadTestsAndClears`: a read, and a second read. -/
theorem witness_icr_read :
    ∃ t t', exec (.readCiaIcr .cia1 0xDC0D#16) s0 = .next t ∧ exec (.readCiaIcr .cia1 0xDC0D#16) t = .next t' :=
  ⟨_, _, rfl, rfl⟩

/-- `UnmodelledRegistersRefuse`: a row, and the ends of the refused offsets. -/
theorem witness_unmodelled :
    Instr.readCiaTod .cia1 0xDC08#16 ∈ [Instr.readCiaTod .cia1 0xDC08#16, .writeCiaTod .cia1 0xDC08#16 0#8,
      .readCiaSdr .cia1 0xDC08#16, .writeCiaSdr .cia1 0xDC08#16 0#8] ∧
    refusedOffset 0xDC08#16 ∧ readBank s0.mapConfig 0xDC08#16 = some (chipBank .cia1) ∧
    refusedOffset 0xDD0C#16 ∧ writeBank s0.mapConfig 0xDD0C#16 = some (chipBank .cia2) := by
  unfold refusedOffset; decide

/-- `TicksCountDown`: the last tick that does not expire, and the one before an expiry. -/
theorem witness_ticks_count_down :
    0 < ((running.cia .cia1).timer .a).counter.toNat ∧ 1 < ((running.cia .cia1).timer .a).counter.toNat := by decide

/-- `ExpiryEffects`: the counter at 1 and at 0. -/
theorem witness_expiry :
    (((withTa 1#16 3#16 none 1#8).cia .cia1).timer .a).counter.toNat ≤ 1 ∧
    (((withTa 0#16 0#16 none 1#8).cia .cia1).timer .a).counter.toNat ≤ 1 := by decide

/-- `TickEventRepeats`: a unit that goes on and a one-shot unit that stops; each overflow. -/
theorem witness_tick_event :
    (∃ t, tick .cia1 .a (withTa 2#16 2#16 none 1#8) = .ok t ∧ ((t.cia .cia1).control .a).getLsbD 0 = true ∧
      t.cycle.toNat + timerRate t.cfg .cia1 ≤ 2 ^ 64 - 1 ∧ t.nextSeq.toNat < 2 ^ 64 - 1) ∧
    (∃ t, tick .cia1 .a (withTa 1#16 2#16 none 9#8) = .ok t ∧ ((t.cia .cia1).control .a).getLsbD 0 = false) ∧
    (∃ t, tick .cia1 .a { withTa 2#16 2#16 none 1#8 with cycle := -1#64 } = .ok t ∧
      2 ^ 64 - 1 < t.cycle.toNat + timerRate t.cfg .cia1) ∧
    (∃ t, tick .cia1 .a { withTa 2#16 2#16 none 1#8 with nextSeq := -1#64 } = .ok t ∧
      t.nextSeq.toNat = 2 ^ 64 - 1) :=
  ⟨⟨_, rfl, by decide, by decide, by decide⟩, ⟨_, rfl, by decide⟩, ⟨_, rfl, by decide⟩, ⟨_, rfl, by decide⟩⟩

/-- `PeriodicExpiry`: latch 2, the last tick of a period. -/
theorem witness_periodic :
    ((running.cia .cia1).timer .a).counter = ((running.cia .cia1).timer .a).latch ∧
    ((running.cia .cia1).control .a).getLsbD 3 = false ∧ cascaded (running.cia .cia1) = false ∧
    1 < ((running.cia .cia1).timer .a).latch.toNat := by decide

/-- `NmiNeedsARisingEdge`: an edge by `ASSERT`, and a pending NMI. -/
theorem witness_nmi_edge :
    let s := s0.withFetchWord 32 0x80001101
    s.nmiPrev = anyAsserted s.nmiLevel ∧ s.nmiPending = false ∧ (after (step s)).nmiPending = true ∧
    (∃ t, exec (.assert .nmi 1#4 false) { s0 with nmiPending := true } = .next t) ∧
    Instr.assert .nmi 1#4 false ≠ .ack := by
  exact ⟨by decide, by decide, by decide, ⟨_, rfl⟩, by decide⟩

/-- `StopsByInstruction`: an instruction that stops and one that does not. -/
theorem witness_stops :
    tablesValid s0.cfg.plaRead s0.cfg.plaWrite = true ∧ s0.stopped = false ∧ (∃ t, exec .ret s0 = .next t) ∧
    (∃ t, exec .cycle s0 = .next t) ∧ ({ s0 with sweep := .sweep 0#64 } : State).stopped = false :=
  ⟨tablesValid_default, rfl, ⟨_, rfl⟩, ⟨_, rfl⟩, rfl⟩

/-- `StopIsReportedLast`: a step that stops with a fault, one with a refusal, one that goes on. -/
theorem witness_stop_reported :
    (∃ t, step (s0.withFetchWord 32 0x70000000) = .next t ∧ t.fault = some .unexpectedReturn) ∧
    (∃ t, step (s0.withFetchWord 32 0x1000DC08) = .next t ∧ t.refusal = some .unmodelledReg) ∧
    (∃ t, step (s0.withFetchWord 32 0x50000000) = .next t ∧ t.stopped = false) :=
  ⟨⟨_, rfl, by decide⟩, ⟨_, rfl, by decide⟩, ⟨_, rfl, by decide⟩⟩

/-- `OneResponsePerCommand`: a command with an event and one without a response of its own. -/
theorem witness_one_response :
    (∃ t, exec (.writeVic 0xD000#16 1#8) s0 = .next t ∧ t.stopped = false) ∧ s0.stopped = false ∧
    (∃ t, exec (.advance 1#28) s0 = .next t ∧ t.stopped = false) :=
  ⟨⟨_, rfl, by decide⟩, rfl, ⟨_, rfl, by decide⟩⟩

/-- `StorageStaysCanonical`, `LevelsStayMatched`, `RegistersStayLegal`: a step from a state that keeps them. -/
theorem witness_register_invariants :
    let s := s0.withFetchWord 32 0x2081DC0D
    StorageCanonical s ∧ LevelsMatched s ∧ RegistersLegal s ∧ CartConsistent s ∧ SideMatched s ∧
    ∃ t, step s = .next t := by
  refine ⟨by unfold StorageCanonical; decide, by unfold LevelsMatched; decide, fun c => ?_, fun _ => by decide,
    by unfold SideMatched; decide, ⟨_, rfl⟩⟩
  unfold ControlLegal
  cases c <;> decide

/-- `QueueStaysOrdered`: in a callback, its event gone, another queued. -/
theorem witness_queue_invariants :
    let s := { withEvent ⟨9#64, 1, 1#64, .ext 1#16⟩ with sweep := .await 0#64 4#64, commands := [0x70000000#32] }
    s.cfg.timerPhase < s.cfg.nphase ∧ QueueOrdered s ∧ AwaitedGone s ∧ PhasesLegal s ∧ ∃ t, step s = .next t := by
  refine ⟨by decide, ordered_withEvent ⟨9#64, 1, 1#64, .ext 1#16⟩ (by decide), fun h rem hh => ?_, fun e he => ?_,
    ⟨_, rfl⟩⟩
  · cases hh
    refine ⟨by decide, fun e he => ?_⟩
    obtain rfl := List.mem_singleton.1 he
    decide
  · obtain rfl := List.mem_singleton.1 he
    decide

/-- `TicksStayMatched`: a running unit with its tick queued, and the sweep that fires it. -/
theorem witness_ticks_matched :
    let s := { running with cycle := 5#64, sweep := .sweep 0#64 }
    QueueOrdered s ∧ TicksMatched s ∧ ∃ t, step s = .next t := by
  refine ⟨ordered_running, fun c u => ⟨fun h hh => ?_, fun e he ho => ?_, fun _ => ?_⟩, ⟨_, rfl⟩⟩
  · cases c <;> cases u <;> cases hh
    exact ⟨evTick, List.mem_singleton_self _, rfl, rfl⟩
  · obtain rfl := List.mem_singleton.1 he
    cases ho
    rfl
  · cases c <;> cases u <;> decide

end Sys2Proof.Tests
end

section
/-! PROOFS. What a step can do to the parts of the state that the invariants of 10_state.md speak of:
`Aside` says that an update leaves them, `Change` and `SweepChange` name the updates that do not, and
`step_invariant` reduces an invariant of every step to those. -/

namespace Sys2Proof.Machine

/-! ## Updates that leave what the invariants speak of -/

/-- From `s` to `t` time, the queue, storage, the cartridge, the pending ticks and the control registers
stay, flags are kept or cleared, no stop is lifted, and the side signal follows its line. -/
structure Aside (s t : State) : Prop where
  cfg : t.cfg = s.cfg
  cycle : t.cycle = s.cycle
  nextSeq : t.nextSeq = s.nextSeq
  queue : t.queue = s.queue
  sweep : t.sweep = s.sweep
  ram : t.ram = s.ram
  color : t.color = s.color
  cart : t.cart = s.cart
  tick : ∀ k v, ((t.cia k).timer v).tick = ((s.cia k).timer v).tick
  control : ∀ k v, (t.cia k).control v = (s.cia k).control v
  flags : ∀ k, (t.cia k).flags = (s.cia k).flags ∨ (t.cia k).flags = 0#5
  stopped : t.stopped = false → s.stopped = false
  side : SideMatched s → SideMatched t

theorem Aside.trans {s t r : State} (h : Aside s t) (h' : Aside t r) : Aside s r where
  cfg := h'.cfg.trans h.cfg
  cycle := h'.cycle.trans h.cycle
  nextSeq := h'.nextSeq.trans h.nextSeq
  queue := h'.queue.trans h.queue
  sweep := h'.sweep.trans h.sweep
  ram := h'.ram.trans h.ram
  color := h'.color.trans h.color
  cart := h'.cart.trans h.cart
  tick k v := (h'.tick k v).trans (h.tick k v)
  control k v := (h'.control k v).trans (h.control k v)
  flags k := by
    rcases h'.flags k with hf | hf
    · rw [hf]; exact h.flags k
    · exact .inr hf
  stopped ht := h.stopped (h'.stopped ht)
  side hs := h'.side (h.side hs)

theorem cia_congr {s t : State} (h1 : t.cia1 = s.cia1) (h2 : t.cia2 = s.cia2) (k : Chip) : t.cia k = s.cia k := by
  cases k
  · exact h1
  · exact h2

/-- An update of none of the fields that `Aside` names. -/
theorem Aside.of_fields {s t : State} (hcfg : t.cfg = s.cfg := by rfl) (hcycle : t.cycle = s.cycle := by rfl)
    (hnext : t.nextSeq = s.nextSeq := by rfl) (hqueue : t.queue = s.queue := by rfl)
    (hsweep : t.sweep = s.sweep := by rfl) (hram : t.ram = s.ram := by rfl) (hcolor : t.color = s.color := by rfl)
    (hcart : t.cart = s.cart := by rfl) (hcia1 : t.cia1 = s.cia1 := by rfl) (hcia2 : t.cia2 = s.cia2 := by rfl)
    (hside : t.side = s.side := by rfl) (hstopped : t.stopped = false → s.stopped = false := by exact id) :
    Aside s t where
  cfg := hcfg
  cycle := hcycle
  nextSeq := hnext
  queue := hqueue
  sweep := hsweep
  ram := hram
  color := hcolor
  cart := hcart
  tick k v := by rw [cia_congr hcia1 hcia2 k]
  control k v := by rw [cia_congr hcia1 hcia2 k]
  flags k := .inl (by rw [cia_congr hcia1 hcia2 k])
  stopped := hstopped
  side hs := by
    unfold SideMatched at hs ⊢
    rw [hside, hcia1, hs]

theorem Aside.refl (s : State) : Aside s s := .of_fields

theorem Aside.emit (s : State) (o : Output) : Aside s (s.emit o) := .of_fields

theorem Aside.afterDraw (s : State) : Aside s s.afterDraw := .of_fields

theorem Aside.raiseFault (s : State) (c : FaultCode) : Aside s (s.raiseFault c) :=
  .of_fields (hstopped := by simp)

theorem Aside.raiseRefusal (s : State) (c : RefusalCode) : Aside s (s.raiseRefusal c) :=
  .of_fields (hstopped := by simp)

theorem Aside.assertLine (s : State) (l : Line) (i : BitVec 4) (b : Bool) : Aside s (s.assertLine l i b) := by
  cases l <;> exact .of_fields

theorem Aside.raiseInterrupt (s : State) (c : Chip) (b : Bool) : Aside s (s.raiseInterrupt c b) := by
  cases c <;> exact .of_fields

theorem Aside.commands (s : State) (ws : List Word) : Aside s { s with commands := ws } := .of_fields

/-- A chip's update that keeps the pending ticks and the control registers, and keeps or clears the flags,
is aside where the side signal still follows its line. -/
theorem Aside.setCia {s : State} {c : Chip} {x : Cia} (htick : ∀ v, (x.timer v).tick = ((s.cia c).timer v).tick)
    (hcontrol : ∀ v, x.control v = (s.cia c).control v) (hflags : x.flags = (s.cia c).flags ∨ x.flags = 0#5)
    (hprb : c = .cia1 → x.prb = s.cia1.prb) (hddrb : c = .cia1 → x.ddrb = s.cia1.ddrb) : Aside s (s.setCia c x) := by
  constructor <;> try simp
  · intro k v; rw [State.cia_setCia_if]; split <;> simp [*]
  · intro k v; rw [State.cia_setCia_if]; split <;> simp [*]
  · intro k; rw [State.cia_setCia_if]; split <;> simp [*]
  · intro hs
    unfold SideMatched sideLevel at *
    cases c with
    | cia1 => rw [show (s.setCia .cia1 x).cia1 = x from rfl, hprb rfl, hddrb rfl]; exact hs
    | cia2 => exact hs

/-- The side effect of a port write is on the side signal and the output only (42_timer.md R268). -/
theorem updateSide_eq (s : State) : ∃ b o, updateSide s = { s with side := b, output := o } := by
  unfold updateSide
  dsimp only
  split
  · exact ⟨s.side, s.output, rfl⟩
  · exact ⟨_, _, rfl⟩

/-- CIA1's side signal follows its line at once (42_timer.md R268). -/
theorem sideMatched_updateSide (s : State) : SideMatched (updateSide s) := by
  unfold updateSide SideMatched
  dsimp only
  split
  · exact Eq.symm ‹_›
  · rfl

/-- A write of a port's data or direction register, with its side effect (42_timer.md R233, R234, R268). -/
theorem Aside.portWrite {s : State} {c : Chip} {p : TimerId} {x : Cia}
    (htick : ∀ v, (x.timer v).tick = ((s.cia c).timer v).tick)
    (hcontrol : ∀ v, x.control v = (s.cia c).control v) (hflags : x.flags = (s.cia c).flags)
    (hprb : p = .a → x.prb = (s.cia c).prb) (hddrb : p = .a → x.ddrb = (s.cia c).ddrb) :
    Aside s (afterPortWrite c p (s.setCia c x)) := by
  cases c with
  | cia2 => cases p <;> exact Aside.setCia htick hcontrol (.inl hflags) nofun nofun
  | cia1 =>
    cases p with
    | a => exact Aside.setCia htick hcontrol (.inl hflags) (fun _ => hprb rfl) (fun _ => hddrb rfl)
    | b =>
      have hs := sideMatched_updateSide (s.setCia .cia1 x)
      obtain ⟨b, o, h⟩ := updateSide_eq (s.setCia .cia1 x)
      rw [h] at hs
      rw [show afterPortWrite .cia1 .b (s.setCia .cia1 x) = updateSide (s.setCia .cia1 x) from rfl, h]
      constructor
      case tick => intro k v; cases k <;> [exact htick v; rfl]
      case control => intro k v; cases k <;> [exact hcontrol v; rfl]
      case flags => intro k; cases k <;> [exact .inl hflags; exact .inl rfl]
      case stopped => exact id
      case side => exact fun _ => hs
      all_goals rfl

/-! ## The updates an instruction makes besides -/

/-- The updates of an instruction that the invariants speak of: at most one of these, and then what is
aside. -/
inductive Change (i : Instr) (s : State) : State → Prop
  | none : Change i s s
  | ram (a : Addr) (v : Byte) : Change i s { s with ram := Memory.write s.ram a v }
  | color (k : BitVec 10) (v : BitVec 4) : Change i s { s with color := ColorRam.write s.color k v }
  | cart (p e g : Bool) (hi : i = .cart p e g) : Change i s { s with cart := ⟨p, e, g⟩ }
  | enqueue (d p : Nat) (tag : BitVec 16) (h : Handle) (t : State) (hp : p < s.cfg.nphase)
      (he : s.enqueue d p (.ext tag) = .ok (h, t)) : Change i s t
  | cancel (h : Handle) (e : Event) (tag : BitVec 16) (he : s.eventOf h = some e) (ho : e.owner = .ext tag) :
      Change i s (s.dequeue h)
  | advance (n : BitVec 28) (hi : i = .advance n) (hs : s.sweep = .idle) (c rem : BitVec 64)
      (hc : s.cycle.toNat ≤ c.toNat) (hn : c.toNat + rem.toNat = s.cycle.toNat + n.toNat)
      (hm : s.cycle.toNat + n.toNat ≤ maxU64) :
      Change i s { s with cycle := c, sweep := .sweep rem }
  | ret (h : Handle) (rem : BitVec 64) (hs : s.sweep = .await h rem) : Change i s (s.resumeSweep rem)
  | control (c : Chip) (u : TimerId) (v : Byte) (hv : crRunsOnCnt v = false) :
      Change i s (settled (writeControl c u v s))

/-- A stop of `Enqueue` changes nothing else (40_scheduler.md R140). -/
theorem enqueue_error {s t : State} {d p : Nat} {o : Owner} (h : s.enqueue d p o = .error t) :
    ∃ f, t = s.raiseFault f := by
  rcases enqueue_cases s d p o with ⟨_, he⟩ | ⟨_, _, he⟩ | ⟨_, _, he⟩ <;> rw [he] at h <;> cases h
  · exact ⟨_, rfl⟩
  · exact ⟨_, rfl⟩

/-- The ICR read: flags and output cleared, the line de-asserted (42_timer.md R250). -/
theorem Aside.clearIcr (c : Chip) (s : State) : Aside s (clearIcr c s) := by
  have h : ∀ b, Aside s (s.setCia c { s.cia c with flags := 0#5, ir := b }) := fun b =>
    .setCia (by intro v; cases v <;> rfl) (by intro v; cases v <;> rfl) (.inr rfl) (by rintro rfl; rfl)
      (by rintro rfl; rfl)
  unfold Machine.clearIcr
  dsimp only
  split
  · exact (h false).trans (.raiseInterrupt _ c false)
  · exact h (s.cia c).ir

/-- The ICR write: the mask, and the line where a set flag is enabled (42_timer.md R251). -/
theorem Aside.writeMask (c : Chip) (v : Byte) (s : State) : Aside s (writeMask c v s) := by
  have h : ∀ m b, Aside s (s.setCia c { s.cia c with mask := m, ir := b }) := fun m b =>
    .setCia (by intro v; cases v <;> rfl) (by intro v; cases v <;> rfl) (.inl rfl) (by rintro rfl; rfl)
      (by rintro rfl; rfl)
  unfold Machine.writeMask
  dsimp only
  split
  · exact (h _ true).trans (.raiseInterrupt _ c true)
  · exact h _ (s.cia c).ir

/-- A write of a timer's counter or latch. -/
theorem Aside.setTimer {c : Chip} {u : TimerId} {s : State} {y : TimerState}
    (h : y.tick = ((s.cia c).timer u).tick) : Aside s (s.setCia c ((s.cia c).setTimer u y)) := by
  refine .setCia (fun v => ?_) (by simp) (by simp) (by rintro rfl; simp; rfl) (by rintro rfl; simp; rfl)
  rw [Cia.timer_setTimer_if]
  split <;> simp [*]

theorem Aside.setLatch (c : Chip) (u : TimerId) (n : BitVec 16) (s : State) :
    Aside s (s.setCia c ((s.cia c).setLatch u n)) :=
  .setTimer rfl

theorem Aside.writeTimerHigh (c : Chip) (u : TimerId) (v : Byte) (s : State) :
    Aside s (s.setCia c (writeTimerHigh (s.cia c) u v)) := by
  unfold Machine.writeTimerHigh
  dsimp only
  split
  · exact .setLatch c u _ s
  · rw [Cia.loadCounter, Cia.setCounter, Cia.setLatch, Cia.setTimer_setTimer]
    exact Aside.setTimer (by simp)

theorem Aside.portData (c : Chip) (p : TimerId) (v : Byte) (s : State) :
    Aside s (afterPortWrite c p (s.setCia c ((s.cia c).setPortData p v))) :=
  .portWrite (by intro u; cases p <;> cases u <;> rfl) (by intro u; cases p <;> cases u <;> rfl)
    (by simp) (by rintro rfl; rfl) (by simp)

theorem Aside.portDir (c : Chip) (p : TimerId) (v : Byte) (s : State) :
    Aside s (afterPortWrite c p (s.setCia c ((s.cia c).setPortDir p v))) :=
  .portWrite (by intro u; cases p <;> cases u <;> rfl) (by intro u; cases p <;> cases u <;> rfl)
    (by simp) (by simp) (by rintro rfl; rfl)

theorem toNat_le_maxU64 (v : BitVec 64) : v.toNat ≤ maxU64 := by
  have := v.isLt
  unfold maxU64
  omega

/-- The `ADVANCE` that starts leaves `n` cycles to the last one (40_scheduler.md R146). -/
theorem advance_start_toNat {cycle : Cycle} {n : BitVec 28} (hn : n ≠ 0#28) (hc : cycle.toNat + n.toNat ≤ maxU64) :
    cycle.toNat ≤ (cycle + 1#64).toNat ∧
      (cycle + 1#64).toNat + (BitVec.ofNat 64 (n.toNat - 1)).toNat = cycle.toNat + n.toNat := by
  have hpos : n.toNat ≠ 0 := fun h => hn (BitVec.eq_of_toNat_eq h)
  have hlt := n.isLt
  have h1 : (cycle + 1#64).toNat = cycle.toNat + 1 := nextSeq_succ (by omega)
  have h2 : (BitVec.ofNat 64 (n.toNat - 1)).toNat = n.toNat - 1 := by simp; omega
  omega

/-- What an instruction answers is one `Change` and then what is aside. -/
theorem exec_change {i : Instr} {s t : State} (h : exec i s = .next t) : ∃ r, Change i s r ∧ Aside r t := by
  have still : ∀ {r}, Aside s r → ∃ r', Change i s r' ∧ Aside r' r := fun ha => ⟨s, .none, ha⟩
  cases exec_effect h
  case respond o _ => exact still (.emit s o)
  case draw v => exact still ((Aside.afterDraw s).trans (.emit _ _))
  case extRead => exact still (((Aside.emit s _).trans (.afterDraw _)).trans (.emit _ _))
  case extWrite => exact still ((Aside.emit s _).trans (.emit _ _))
  case fault c => exact still (.raiseFault s c)
  case refuse c => exact still (.raiseRefusal s c)
  case portDdr v _ => exact still (Aside.trans .of_fields (.emit { s with portDdr := v } _))
  case portData v _ => exact still (Aside.trans .of_fields (.emit { s with portData := v } _))
  case ram a v _ => exact ⟨_, .ram a v, .emit _ _⟩
  case color a v _ => exact ⟨_, .color _ _, .emit _ _⟩
  case busByte b _ => exact still (Aside.trans .of_fields (.emit { s with busByte := b } _))
  case cart p e g hi => exact ⟨_, .cart p e g hi, .emit _ _⟩
  case schedule d p tag k t hi hp he => exact ⟨t, .enqueue _ _ tag k t hp he, .emit _ _⟩
  case scheduleStop he =>
    obtain ⟨f, rfl⟩ := enqueue_error he
    exact still (.raiseFault s f)
  case cancel k e tag _ he ho => exact ⟨_, .cancel k e tag he ho, .emit _ _⟩
  case advanceZero hi hs =>
    exact ⟨_, .advance 0#28 hi hs s.cycle 0#64 (le_refl _) rfl (toNat_le_maxU64 s.cycle), .refl _⟩
  case advance n hi hn hs hc =>
    obtain ⟨hle, hsum⟩ := advance_start_toNat hn hc
    exact ⟨_, .advance n hi hs _ _ hle hsum hc, .refl _⟩
  case ret k rem _ hs => exact ⟨_, .ret k rem hs, .refl _⟩
  case assert l src b _ => exact still ((Aside.assertLine s l src b).trans (.emit _ _))
  case ack => exact still (Aside.trans .of_fields (.emit { s with nmiPending := false } _))
  case ciaPort c p v => exact still ((Aside.portData c p v s).trans (.emit _ _))
  case ciaDir c p v => exact still ((Aside.portDir c p v s).trans (.emit _ _))
  case ciaLow c u v => exact still ((Aside.setLatch c u _ s).trans (.emit _ _))
  case ciaHigh c u v => exact still ((Aside.writeTimerHigh c u v s).trans (.emit _ _))
  case icrRead c => exact still ((Aside.clearIcr c s).trans (.emit _ _))
  case icrWrite c v => exact still ((Aside.writeMask c v s).trans (.emit _ _))
  case control c u v t hv ht => exact ⟨_, .control c u v hv, by rw [ht]; exact .emit _ _⟩
  case controlStop c u v hv ht => exact ⟨_, .control c u v hv, by rw [ht]; exact .refl _⟩

/-! ## The updates of a sweep step -/

/-- The updates of a sweep step that the invariants speak of. -/
inductive SweepChange (rem : BitVec 64) (s : State) : State → Prop
  | done (hr : rem = 0#64) : SweepChange rem s { s with sweep := .idle }
  | next (hr : rem ≠ 0#64) : SweepChange rem s { s with cycle := s.cycle + 1#64, sweep := .sweep (rem - 1#64) }
  | fire (e : Event) (tag : BitVec 16) (he : e ∈ s.queue) (ho : e.owner = .ext tag) :
      SweepChange rem s { s.dequeue e.seq with sweep := .await e.seq rem }
  | tick (e : Event) (c : Chip) (u : TimerId) (he : e ∈ s.queue) (ho : e.owner = .tick c u) :
      SweepChange rem s (settled (fireTick c u (s.dequeue e.seq)))

/-- What a sweep step answers is one `SweepChange` and then what is aside (40_scheduler.md R147 to R151). -/
theorem sweepStep_change (rem : BitVec 64) (s : State) : ∃ r, SweepChange rem s r ∧ Aside r (sweepStep rem s) := by
  rcases sweepStep_cases rem s with ⟨_, h⟩ | ⟨e, he, _, _, ⟨tag, ho, h⟩ | ⟨c, u, ho, h⟩⟩ <;> rw [h]
  · unfold endSweep
    split
    · exact ⟨_, .done ‹_›, .emit _ _⟩
    · exact ⟨_, .next ‹_›, .refl _⟩
  · exact ⟨_, .fire e tag he ho, .emit { s.dequeue e.seq with sweep := .await e.seq rem } _⟩
  · exact ⟨_, .tick e c u he ho, .refl _⟩

/-! ## An invariant of every step -/

/-- No row is a `CART`. -/
theorem readRow_ne_cart (b : Bank) (a : Addr) (p e g : Bool) : readRow b a ≠ .cart p e g := by
  unfold readRow
  split
  case h_5 => split <;> nofun
  case h_8 | h_9 => unfold ciaReadRow; dsimp only; split_ifs <;> nofun
  case h_10 x =>
    cases x
    case romh => unfold extReadRow; dsimp only; split <;> nofun
    all_goals nofun
  all_goals nofun

theorem writeRow_ne_cart (b : Bank) (a : Addr) (v : Byte) (p e g : Bool) : writeRow b a v ≠ .cart p e g := by
  unfold writeRow
  split
  case h_5 => split <;> nofun
  case h_8 | h_9 => unfold ciaWriteRow; dsimp only; split_ifs <;> nofun
  case h_10 => unfold extWriteRow; split <;> nofun
  all_goals nofun

/-- Only a `CART` command is performed as a `CART` (30_encoding.md R126). -/
theorem target_eq_cart {c : MapConfig} {i : Instr} {p e g : Bool} (h : target c i = .cart p e g) :
    i = .cart p e g := by
  cases i
  case read a =>
    simp only [target] at h
    split at h
    · exact absurd h (readRow_ne_cart _ _ _ _ _)
    · exact h
  case write a v =>
    simp only [target] at h
    split at h
    · exact absurd h (writeRow_ne_cart _ _ _ _ _ _)
    · exact h
  all_goals exact h

/-- What every update named by `Aside`, `Change` and `SweepChange` keeps, every step keeps. The decoder
gives a `CART` without a cartridge only when both its lines are 1 (30_encoding.md R122). -/
theorem step_invariant {P : State → Prop} (aside : ∀ {s t}, Aside s t → P s → P t)
    (change : ∀ {i s t}, (∀ p e g, i = .cart p e g → (p || (e && g)) = true) → Change i s t → P s → P t)
    (sweep : ∀ {rem s t}, s.stopped = false → s.sweep = .sweep rem → SweepChange rem s t → P s → P t)
    {s t : State} (hp : P s) (h : step s = .next t) : P t := by
  obtain ⟨hst, ⟨rem, hs, rfl⟩ | ⟨-, rfl | ⟨f, -, rfl⟩ | ⟨f, i, -, hd, hx⟩⟩⟩ := step_cases h
  · obtain ⟨r, hr, ha⟩ := sweepStep_change rem s
    exact aside ha (sweep hst hs hr hp)
  · exact hp
  · exact aside ((Aside.commands s f.rest).trans (.raiseFault _ _)) hp
  · obtain ⟨r, hr, ha⟩ := exec_change hx
    refine aside ha (change (fun p e g hi => ?_) hr (aside (.commands s f.rest) hp))
    have hwf := (decodeWords_wf hd).1
    rw [target_eq_cart hi] at hwf
    exact hwf

end Sys2Proof.Machine
end

section
/-! PROOFS. Storage (10_state.md R28, R29) and time (R21). -/

namespace Sys2Proof.Machine

/-- What `Enqueue` leaves when it does not stop (40_scheduler.md R140). -/
theorem enqueue_ok {s t : State} {d p : Nat} {o : Owner} {h : Handle} (he : s.enqueue d p o = .ok (h, t)) :
    ∃ at', t = { s with queue := s.queue ++ [⟨at', p, s.nextSeq, o⟩], nextSeq := s.nextSeq + 1#64 } := by
  rcases enqueue_cases s d p o with ⟨_, hq⟩ | ⟨_, _, hq⟩ | ⟨_, _, hq⟩ <;> rw [hq] at he <;> cases he
  exact ⟨_, rfl⟩

/-- A control register write keeps the frame of counting, whether it stops the core or not. -/
theorem writeControl_frame (c : Chip) (u : TimerId) (v : Byte) (s : State) :
    CountFrame c s (settled (writeControl c u v s)) := by
  have hx : ∀ w, (((s.cia c).setControl u (crStored v)).timer w).latch = ((s.cia c).timer w).latch := fun w => by simp
  unfold writeControl
  dsimp only
  split
  · refine CountFrame.trans (t := s.setCia c _) (.setCia ?_ ?_ ?_ ?_ ?_ fun w => ?_) (reconcile_frame c u _)
    all_goals simp [Cia.loadCounter, Cia.setCounter, Cia.timer_setTimer_if]
    split <;> simp [*]
  · exact CountFrame.trans (.setCia (by simp) (by simp) (by simp) (by simp) (by simp) hx) (reconcile_frame c u _)

/-! ## Storage -/

theorem StorageCanonical.of_eq {s t : State} (hram : t.ram = s.ram) (hcolor : t.color = s.color)
    (h : StorageCanonical s) : StorageCanonical t := by
  unfold StorageCanonical
  rw [hram, hcolor]
  exact h

theorem StorageCanonical.change {i : Instr} {s t : State} (hc : Change i s t) (h : StorageCanonical s) :
    StorageCanonical t := by
  obtain ⟨hram, hcolor⟩ := h
  cases hc
  case ram a v => exact ⟨Memory.write_wf hram a v, hcolor⟩
  case color k v => exact ⟨hram, ColorRam.write_wf hcolor k v⟩
  case enqueue he => obtain ⟨_, rfl⟩ := enqueue_ok he; exact ⟨hram, hcolor⟩
  case control c u v _ =>
    have hf := writeControl_frame c u v s
    exact .of_eq hf.ram hf.color ⟨hram, hcolor⟩
  all_goals exact ⟨hram, hcolor⟩

theorem StorageCanonical.sweepChange {rem : BitVec 64} {s t : State} (hc : SweepChange rem s t)
    (h : StorageCanonical s) : StorageCanonical t := by
  cases hc
  case tick e c u _ _ => exact .of_eq (fireTick_frame c u _).ram (fireTick_frame c u _).color h
  all_goals exact h

/-- Settles O56: only a write of RAM or colour RAM changes storage, and it keeps the canonical form. -/
theorem storageStaysCanonical : Obligations.StorageStaysCanonical := fun _ _ =>
  step_invariant (fun ha => .of_eq ha.ram ha.color) (fun _ => .change) (fun _ _ => .sweepChange)

/-! ## Time -/

/-- The only instruction that changes the cycle is `ADVANCE`, and those that change the sweep state are
`ADVANCE` and `RETURN`. -/
theorem Change.time {i : Instr} {s t : State} (hc : Change i s t) :
    (t.cycle = s.cycle ∧ t.sweep = s.sweep) ∨
    (∃ n rem, i = .advance n ∧ s.sweep = .idle ∧ t.sweep = .sweep rem ∧ s.cycle.toNat ≤ t.cycle.toNat ∧
      t.cycle.toNat + rem.toNat = s.cycle.toNat + n.toNat ∧ s.cycle.toNat + n.toNat ≤ maxU64) ∨
    (∃ h rem, t.cycle = s.cycle ∧ s.sweep = .await h rem ∧ t.sweep = .sweep rem) := by
  cases hc
  case enqueue he => obtain ⟨_, rfl⟩ := enqueue_ok he; exact .inl ⟨rfl, rfl⟩
  case advance n hi hs cyc rem hle hn hm => exact .inr (.inl ⟨n, rem, hi, hs, rfl, hle, hn, hm⟩)
  case ret h rem hs => exact .inr (.inr ⟨h, rem, rfl, hs, rfl⟩)
  case control c u v _ => exact .inl ⟨(writeControl_frame c u v s).cycle, (writeControl_frame c u v s).sweep⟩
  all_goals exact .inl ⟨rfl, rfl⟩

/-- A sweep step keeps the cycle and the cycles still to advance, or takes one of these to the cycle
(40_scheduler.md R150). -/
theorem SweepChange.time {rem : BitVec 64} {s t : State} (hc : SweepChange rem s t) :
    (t.cycle = s.cycle ∧ (t.sweep = s.sweep ∨ (t.sweep = .idle ∧ rem = 0#64) ∨ ∃ h, t.sweep = .await h rem)) ∨
    (rem ≠ 0#64 ∧ t.cycle = s.cycle + 1#64 ∧ t.sweep = .sweep (rem - 1#64)) := by
  cases hc
  case done hr => exact .inl ⟨rfl, .inr (.inl ⟨rfl, hr⟩)⟩
  case next hr => exact .inr ⟨hr, rfl, rfl⟩
  case fire e tag _ _ => exact .inl ⟨rfl, .inr (.inr ⟨e.seq, rfl⟩)⟩
  case tick e c u _ _ => exact .inl ⟨(fireTick_frame c u _).cycle, .inl (fireTick_frame c u _).sweep⟩

theorem lastCycle_idle {s : State} (h : s.sweep = .idle) : s.lastCycle = s.cycle.toNat := by
  simp only [State.lastCycle, h]

theorem lastCycle_sweep {s : State} {rem : BitVec 64} (h : s.sweep = .sweep rem) :
    s.lastCycle = s.cycle.toNat + rem.toNat := by
  simp only [State.lastCycle, h]

theorem lastCycle_await {s : State} {k : Handle} {rem : BitVec 64} (h : s.sweep = .await k rem) :
    s.lastCycle = s.cycle.toNat + rem.toNat := by
  simp only [State.lastCycle, h]

theorem lastCycle_congr {s t : State} (hcycle : t.cycle = s.cycle) (hsweep : t.sweep = s.sweep) :
    t.lastCycle = s.lastCycle := by
  unfold State.lastCycle
  rw [hcycle, hsweep]

/-- The cycles still to advance fit exactly when the last cycle does. -/
theorem sweepFits_iff (s : State) : SweepFits s ↔ s.lastCycle ≤ maxU64 := by
  unfold SweepFits State.lastCycle
  split
  · exact iff_of_true trivial (toNat_le_maxU64 s.cycle)
  · rfl
  · rfl

theorem Aside.lastCycle {s t : State} (h : Aside s t) : t.lastCycle = s.lastCycle :=
  lastCycle_congr h.cycle h.sweep

/-- A sweep step moves the cycle by at most one and keeps the last cycle (40_scheduler.md R150). -/
theorem sweepChange_lastCycle {rem : BitVec 64} {s t : State} (hf : SweepFits s) (hs : s.sweep = .sweep rem)
    (hc : SweepChange rem s t) : s.cycle.toNat ≤ t.cycle.toNat ∧ t.lastCycle = s.lastCycle := by
  rw [sweepFits_iff, lastCycle_sweep hs] at hf
  rw [lastCycle_sweep hs]
  obtain ⟨hcy, hsw | ⟨hsw, rfl⟩ | ⟨k, hsw⟩⟩ | ⟨hr, hcy, hsw⟩ := hc.time
  · rw [lastCycle_sweep (hsw.trans hs), hcy]; exact ⟨le_refl _, rfl⟩
  · rw [lastCycle_idle hsw, hcy]; exact ⟨le_refl _, rfl⟩
  · rw [lastCycle_await hsw, hcy]; exact ⟨le_refl _, rfl⟩
  · have hpos : rem.toNat ≠ 0 := fun h => hr (BitVec.eq_of_toNat_eq h)
    have h1 : t.cycle.toNat = s.cycle.toNat + 1 := by rw [hcy]; exact nextSeq_succ (by omega)
    have h2 : (rem - 1#64).toNat = rem.toNat - 1 := BitVec.toNat_sub_of_le (by rw [BitVec.le_def]; simp; omega)
    rw [lastCycle_sweep hsw, h1, h2]
    omega

/-- An instruction moves neither the cycle nor the last cycle, but for the `ADVANCE` that starts. -/
theorem change_lastCycle {i : Instr} {s t : State} (hc : Change i s t) :
    (t.cycle = s.cycle ∧ t.lastCycle = s.lastCycle) ∨
    (∃ n, i = .advance n ∧ s.sweep = .idle ∧ s.cycle.toNat ≤ t.cycle.toNat ∧
      t.lastCycle = s.cycle.toNat + n.toNat ∧ t.lastCycle ≤ maxU64) := by
  obtain ⟨hcy, hsw⟩ | ⟨n, rem, hi, hs, hsw, hle, hn, hm⟩ | ⟨k, rem, hcy, hs, hsw⟩ := hc.time
  · exact .inl ⟨hcy, lastCycle_congr hcy hsw⟩
  · rw [lastCycle_sweep hsw, hn]; exact .inr ⟨n, hi, hs, hle, rfl, hm⟩
  · rw [lastCycle_sweep hsw, lastCycle_await hs, hcy]; exact .inl ⟨rfl, rfl⟩

/-- What a step does to time: the last cycle stays, or an `ADVANCE` starts from `IDLE`. -/
theorem step_time {s t : State} (hf : SweepFits s) (h : step s = .next t) :
    s.cycle.toNat ≤ t.cycle.toNat ∧ (t.lastCycle = s.lastCycle ∨ (s.sweep = .idle ∧ t.lastCycle ≤ maxU64)) := by
  obtain ⟨-, ⟨rem, hs, rfl⟩ | ⟨-, rfl | ⟨f, -, rfl⟩ | ⟨f, i, -, -, hx⟩⟩⟩ := step_cases h
  · obtain ⟨r, hr, ha⟩ := sweepStep_change rem s
    obtain ⟨hcy, hl⟩ := sweepChange_lastCycle hf hs hr
    rw [ha.cycle, ha.lastCycle]
    exact ⟨hcy, .inl hl⟩
  · exact ⟨le_refl _, .inl rfl⟩
  · exact ⟨le_refl _, .inl rfl⟩
  · obtain ⟨r, hr, ha⟩ := exec_change hx
    rw [ha.cycle, ha.lastCycle]
    obtain ⟨hcy, hl⟩ | ⟨n, -, hs, hcy, -, hl⟩ := change_lastCycle hr
    · rw [hcy, hl]; exact ⟨le_refl _, .inl rfl⟩
    · exact ⟨hcy, .inr ⟨hs, hl⟩⟩

/-- An `ADVANCE n` that starts puts the last cycle `n` cycles ahead (40_scheduler.md R146). -/
theorem execAdvance_lastCycle {n : BitVec 28} {s t : State} (hs : s.sweep = .idle) (ht : t.stopped = false)
    (h : execAdvance n s = .next t) : t.lastCycle = s.cycle.toNat + n.toNat ∧ t.lastCycle ≤ maxU64 := by
  unfold execAdvance at h
  rw [if_neg (not_not.2 hs)] at h
  split at h
  · subst n; cases h
    rw [lastCycle_sweep rfl]
    exact ⟨rfl, toNat_le_maxU64 s.cycle⟩
  split at h
  · cases h; simp at ht
  · cases h
    have hc : s.cycle.toNat + n.toNat ≤ maxU64 := by omega
    rw [lastCycle_sweep rfl, (advance_start_toNat ‹_› hc).2]
    exact ⟨rfl, hc⟩

/-- Settles O36: the last cycle is fixed by the `ADVANCE` that starts and kept by every later step. -/
theorem timeOnlyMovesByAdvance : Obligations.TimeOnlyMovesByAdvance := by
  refine ⟨fun i s t h hi => ?_, fun s t hf h => ?_, fun n s t hs _ h ht => ?_, fun s t hf hs h => ?_,
    fun s => lastCycle_idle⟩
  · obtain ⟨r, hr, ha⟩ := exec_change h
    obtain ⟨hcy, -⟩ | ⟨n, rfl, -⟩ := change_lastCycle hr
    · exact ha.cycle.trans hcy
    · exact absurd rfl (hi n)
  · obtain ⟨hcy, hl⟩ := step_time hf h
    refine ⟨hcy, ?_⟩
    rw [sweepFits_iff] at hf ⊢
    obtain hl | ⟨-, hl⟩ := hl <;> omega
  · obtain ⟨hl, hm⟩ := execAdvance_lastCycle hs ht h
    exact ⟨(sweepFits_iff t).2 hm, hl⟩
  · obtain ⟨-, hl | ⟨hi, -⟩⟩ := step_time hf h
    · exact hl
    · exact absurd hi hs

end Sys2Proof.Machine
end

section
/-! PROOFS. The event queue: its order, the awaited event and the phases (10_state.md R22 to R24;
40_scheduler.md R147). -/

namespace Sys2Proof.Machine

/-! ## The awaited event -/

/-- An awaited handle is an issued one, and no event of a later queue has it. -/
theorem AwaitedGone.grows {s t : State} (hg : QueueGrows s t) (hq : QueueOrdered s) (hsw : t.sweep = s.sweep)
    (h : AwaitedGone s) : AwaitedGone t := by
  intro k rem hk
  obtain ⟨hlt, hne⟩ := h k rem (hsw ▸ hk)
  obtain ⟨-, hle, hnew⟩ := hg hq
  rw [BitVec.lt_def] at hlt ⊢
  refine ⟨by omega, fun e he hs => ?_⟩
  rcases hnew e he with hold | hnew
  · exact hne e hold hs
  · rw [hs] at hnew; omega

theorem awaitedGone_of_not_await {t : State} (h : ∀ k rem, t.sweep ≠ .await k rem) : AwaitedGone t :=
  fun k rem hk => absurd hk (h k rem)

theorem Aside.awaitedGone {s t : State} (ha : Aside s t) (h : AwaitedGone s) : AwaitedGone t := by
  unfold AwaitedGone
  rw [ha.sweep, ha.nextSeq, ha.queue]
  exact h

/-- An event that fires has left the queue (40_scheduler.md R147). -/
theorem awaitedGone_fire {s : State} {e : Event} (hq : QueueOrdered s) (he : e ∈ s.queue) (rem : BitVec 64) :
    AwaitedGone { s.dequeue e.seq with sweep := .await e.seq rem } := by
  intro k r hk
  cases hk
  exact ⟨hq.2 e he, fun f hf => (mem_dequeue.1 hf).2⟩

theorem step_awaitedGone {s t : State} (hq : QueueOrdered s) (ha : AwaitedGone s) (h : step s = .next t) :
    AwaitedGone t := by
  have hg := step_grows h
  obtain ⟨-, ⟨rem, hs, rfl⟩ | ⟨-, rfl | ⟨f, -, rfl⟩ | ⟨f, i, -, -, hx⟩⟩⟩ := step_cases h
  · obtain ⟨r, hr, hra⟩ := sweepStep_change rem s
    cases hr
    case fire e tag he _ => exact hra.awaitedGone (awaitedGone_fire hq he rem)
    case tick e c u _ _ => exact ha.grows hg hq (hra.sweep.trans (fireTick_frame c u _).sweep)
    all_goals exact awaitedGone_of_not_await fun k r hk => by rw [hra.sweep] at hk; cases hk
  · exact ha
  · exact ha
  · obtain ⟨r, hr, hra⟩ := exec_change hx
    obtain ⟨-, hsw⟩ | ⟨n, rem, -, -, hsw, -⟩ | ⟨k, rem, -, -, hsw⟩ := hr.time
    · exact ha.grows hg hq (hra.sweep.trans hsw)
    all_goals exact awaitedGone_of_not_await fun k r hk => by rw [hra.sweep, hsw] at hk; cases hk

/-! ## Phases -/

/-- Every event of `t` is one of `s` or has a phase tag of the machine, whose parameters stay. -/
def PhasesKept (s t : State) : Prop :=
  t.cfg = s.cfg ∧ (s.cfg.timerPhase < s.cfg.nphase → ∀ e ∈ t.queue, e ∈ s.queue ∨ e.phase < s.cfg.nphase)

theorem PhasesKept.trans {s t r : State} (h : PhasesKept s t) (h' : PhasesKept t r) : PhasesKept s r := by
  obtain ⟨hc, hq⟩ := h
  obtain ⟨hc', hq'⟩ := h'
  rw [hc] at hc' hq'
  refine ⟨hc', fun ht e he => ?_⟩
  rcases hq' ht e he with hold | hnew
  · exact hq ht e hold
  · exact .inr hnew

theorem PhasesKept.of_subset {s t : State} (hc : t.cfg = s.cfg) (hq : ∀ e ∈ t.queue, e ∈ s.queue) : PhasesKept s t :=
  ⟨hc, fun _ e he => .inl (hq e he)⟩

theorem Aside.phasesKept {s t : State} (h : Aside s t) : PhasesKept s t :=
  .of_subset h.cfg fun _ he => h.queue ▸ he

/-- A queued tick has the phase of ticks (42_timer.md R243). -/
theorem reconcile_phasesKept (c : Chip) (u : TimerId) (s : State) : PhasesKept s (settled (reconcile c u s)) := by
  refine ⟨(reconcile_frame c u s).cfg, fun hp => ?_⟩
  rcases reconcile_cases c u s with ⟨h, _⟩ | ⟨k, _, _, h⟩ | ⟨_, _, ⟨_, h⟩ | ⟨_, h⟩ | ⟨_, _, h⟩⟩ <;> rw [h] <;>
    simp only [settled, State.setTick, State.setCia_queue] <;> intro e he
  · exact .inl he
  · exact .inl (mem_dequeue.1 he).1
  · exact .inl he
  · exact .inl he
  · rcases List.mem_append.1 he with he | he
    · exact .inl he
    · obtain rfl := List.mem_singleton.1 he
      exact .inr hp

theorem fireTick_phasesKept (c : Chip) (u : TimerId) (s : State) : PhasesKept s (settled (fireTick c u s)) := by
  obtain ⟨t, ht, h⟩ := settled_fireTick c u s
  rw [h]
  refine PhasesKept.trans (.of_subset (by simp [(tick_frame ht).cfg, State.setTick]) fun e he => ?_)
    (reconcile_phasesKept c u t)
  simpa [State.setTick] using (tick_quiet ht).queue.subset he

theorem Change.phasesKept {i : Instr} {s t : State} (hc : Change i s t) : PhasesKept s t := by
  cases hc
  case enqueue d p tag k hp he =>
    obtain ⟨_, rfl⟩ := enqueue_ok he
    refine ⟨rfl, fun _ e he => ?_⟩
    rcases List.mem_append.1 he with he | he
    · exact .inl he
    · obtain rfl := List.mem_singleton.1 he
      exact .inr hp
  case cancel => exact .of_subset rfl fun f hf => (mem_dequeue.1 hf).1
  case control c u v _ =>
    obtain ⟨x, hx, -⟩ := writeControl_split c u v s
    rw [hx]
    exact PhasesKept.trans (.of_subset (by simp) (by simp)) (reconcile_phasesKept c u (s.setCia c x))
  all_goals exact .of_subset rfl fun _ he => he

theorem SweepChange.phasesKept {rem : BitVec 64} {s t : State} (hc : SweepChange rem s t) : PhasesKept s t := by
  cases hc
  case fire => exact .of_subset rfl fun f hf => (mem_dequeue.1 hf).1
  case tick e c u _ _ =>
    exact PhasesKept.trans (t := s.dequeue e.seq) (.of_subset rfl fun f hf => (mem_dequeue.1 hf).1)
      (fireTick_phasesKept c u _)
  all_goals exact .of_subset rfl fun _ he => he

theorem step_phasesKept {s t : State} (h : step s = .next t) : PhasesKept s t :=
  step_invariant (P := PhasesKept s) (fun ha hp => hp.trans ha.phasesKept) (fun _ hc hp => hp.trans hc.phasesKept)
    (fun _ _ hc hp => hp.trans hc.phasesKept) (.of_subset rfl fun _ he => he) h

/-- Settles O57: the queue only grows by the next handle, a fired event leaves it, and a new event has its
`SCHEDULE`'s checked phase or that of ticks. -/
theorem queueStaysOrdered : Obligations.QueueStaysOrdered := by
  intro s t hp ⟨hq, ha, hph⟩ h
  obtain ⟨hcfg, hnew⟩ := step_phasesKept h
  refine ⟨(step_grows h hq).1, step_awaitedGone hq ha h, fun e he => ?_⟩
  rw [hcfg]
  rcases hnew hp e he with hold | hnew
  · exact hph e hold
  · exact hnew

end Sys2Proof.Machine
end

section
/-! PROOFS. A unit's tick handle and its tick event name each other, and a running unit has one
(10_state.md R41; 42_timer.md R243, R247). -/

namespace Sys2Proof.Machine

/-! ## The invariant, with the units that must have a tick exactly when they are clocked -/

/-- The unit's tick handle names a tick event of the unit, and every such event is the one it names. -/
def TickLinked (s : State) (c : Chip) (u : TimerId) : Prop :=
  (∀ h, ((s.cia c).timer u).tick = some h → ∃ e ∈ s.queue, e.seq = h ∧ e.owner = .tick c u) ∧
  (∀ e ∈ s.queue, e.owner = .tick c u → ((s.cia c).timer u).tick = some e.seq)

/-- The unit has a tick exactly when it is clocked. -/
def TickRuns (s : State) (c : Chip) (u : TimerId) : Prop :=
  ((s.cia c).timer u).tick.isSome = true ↔ clocked (s.cia c) u = true

/-- `TicksMatched`, but that only the units of `P` must have a tick exactly when they are clocked. -/
def TicksMatchedOn (P : Chip → TimerId → Prop) (s : State) : Prop :=
  ∀ c u, TickLinked s c u ∧ (P c u → s.stopped = false → TickRuns s c u)

/-- Every unit but one. -/
def OtherUnits (c : Chip) (u : TimerId) (k : Chip) (v : TimerId) : Prop := ¬ (k = c ∧ v = u)

theorem ticksMatched_iff {s : State} : TicksMatched s ↔ TicksMatchedOn (fun _ _ => True) s := by
  simp only [TicksMatched, TicksMatchedOn, TickLinked, TickRuns, and_assoc, true_implies]

theorem TicksMatchedOn.mono {P Q : Chip → TimerId → Prop} {s : State} (hPQ : ∀ k v, Q k v → P k v)
    (h : TicksMatchedOn P s) : TicksMatchedOn Q s :=
  fun k v => ⟨(h k v).1, fun hq => (h k v).2 (hPQ k v hq)⟩

/-! ## Updates that keep it -/

theorem TickLinked.congr {s t : State} {c : Chip} {u : TimerId}
    (hq : ∀ e, e.owner = .tick c u → (e ∈ t.queue ↔ e ∈ s.queue))
    (ht : ((t.cia c).timer u).tick = ((s.cia c).timer u).tick) (h : TickLinked s c u) : TickLinked t c u := by
  obtain ⟨h1, h2⟩ := h
  unfold TickLinked
  rw [ht]
  refine ⟨fun k hk => ?_, fun e he ho => h2 e ((hq e ho).1 he) ho⟩
  obtain ⟨e, he, hs, ho⟩ := h1 k hk
  exact ⟨e, (hq e ho).2 he, hs, ho⟩

theorem TickRuns.congr {s t : State} {c : Chip} {u : TimerId}
    (ht : ((t.cia c).timer u).tick = ((s.cia c).timer u).tick) (hc : clocked (t.cia c) u = clocked (s.cia c) u)
    (h : TickRuns s c u) : TickRuns t c u := by
  unfold TickRuns
  rw [ht, hc]
  exact h

/-- The tick events and every unit's tick handle stay, no stop is lifted, and the units of `P` stay clocked
or not. -/
structure TicksKept (P : Chip → TimerId → Prop) (s t : State) : Prop where
  queue : ∀ e c u, e.owner = .tick c u → (e ∈ t.queue ↔ e ∈ s.queue)
  tick : ∀ c u, ((t.cia c).timer u).tick = ((s.cia c).timer u).tick
  clocked : ∀ c u, P c u → clocked (t.cia c) u = clocked (s.cia c) u
  stopped : t.stopped = false → s.stopped = false

theorem TicksMatchedOn.kept {P : Chip → TimerId → Prop} {s t : State} (hk : TicksKept P s t)
    (h : TicksMatchedOn P s) : TicksMatchedOn P t := fun c u =>
  ⟨(h c u).1.congr (fun e ho => hk.queue e c u ho) (hk.tick c u),
    fun hp hst => ((h c u).2 hp (hk.stopped hst)).congr (hk.tick c u) (hk.clocked c u hp)⟩

/-- Whether a unit is clocked depends on its control register only (42_timer.md R243). -/
theorem clocked_congr {x y : Cia} {u : TimerId} (h : x.control u = y.control u) : clocked x u = clocked y u := by
  cases u
  · exact congrArg crStart h
  · exact congrArg (fun cr => crStart cr && crbInmode cr == 0b00#2) h

/-- A unit B that counts unit A's expiries counts no cycles (42_timer.md R243, R249). -/
theorem not_clocked_of_cascaded {x : Cia} (h : cascaded x = true) : clocked x .b = false := by
  rw [← Bool.not_eq_true, clocked_iff]
  rintro ⟨-, hb⟩
  have := hb rfl
  have := ((cascaded_iff x).1 h).2
  omega

theorem Aside.ticksKept {s t : State} (h : Aside s t) (P : Chip → TimerId → Prop) : TicksKept P s t where
  queue e _ _ _ := by rw [h.queue]
  tick := h.tick
  clocked c u _ := clocked_congr (h.control c u)
  stopped := h.stopped

/-- An update of the queue, the next handle and other fields that no timer has. -/
theorem TicksKept.of_queue {s t : State} (P : Chip → TimerId → Prop)
    (hq : ∀ e c u, e.owner = .tick c u → (e ∈ t.queue ↔ e ∈ s.queue)) (hcia : ∀ k, t.cia k = s.cia k)
    (hst : t.stopped = s.stopped) : TicksKept P s t where
  queue := hq
  tick c u := by rw [hcia]
  clocked c u _ := by rw [hcia]
  stopped h := hst ▸ h

/-- Removing an external event removes no tick. -/
theorem mem_dequeue_ext {s : State} {e f : Event} {tag : BitVec 16} {c : Chip} {u : TimerId} (hq : QueueOrdered s)
    (he : e ∈ s.queue) (ho : e.owner = .ext tag) (hf : f.owner = .tick c u) :
    f ∈ (s.dequeue e.seq).queue ↔ f ∈ s.queue := by
  rw [mem_dequeue, and_iff_left_iff_imp]
  intro hm hs
  rw [hq.seq_inj hm he hs, ho] at hf
  cases hf

/-! ## Setting a unit's tick handle -/

theorem setTick_tick (s : State) (c k : Chip) (u v : TimerId) (h : Option Handle) :
    (((s.setTick c u h).cia k).timer v).tick = if k = c ∧ v = u then h else ((s.cia k).timer v).tick := by
  unfold State.setTick Cia.setTick
  rw [State.cia_setCia_if]
  by_cases hk : k = c
  · subst k
    rw [if_pos rfl, Cia.timer_setTimer_if]
    split <;> simp [*]
  · simp [hk]

@[simp] theorem setTick_control (s : State) (c k : Chip) (u v : TimerId) (h : Option Handle) :
    ((s.setTick c u h).cia k).control v = (s.cia k).control v := by
  unfold State.setTick Cia.setTick
  rw [State.cia_setCia_if]
  split <;> simp [*]

@[simp] theorem setTick_flags (s : State) (c k : Chip) (u : TimerId) (h : Option Handle) :
    ((s.setTick c u h).cia k).flags = (s.cia k).flags := by
  unfold State.setTick Cia.setTick
  rw [State.cia_setCia_if]
  split <;> simp [*]

@[simp] theorem setTick_queue (s : State) (c : Chip) (u : TimerId) (h : Option Handle) :
    (s.setTick c u h).queue = s.queue := by simp [State.setTick]

@[simp] theorem setTick_stopped (s : State) (c : Chip) (u : TimerId) (h : Option Handle) :
    (s.setTick c u h).stopped = s.stopped := by simp [State.setTick]

theorem setTick_clocked (s : State) (c k : Chip) (u v : TimerId) (h : Option Handle) :
    clocked ((s.setTick c u h).cia k) v = clocked (s.cia k) v :=
  clocked_congr (setTick_control s c k u v h)

/-- A unit's tick event and handle are removed together (42_timer.md R243). -/
theorem TicksMatchedOn.remove {P : Chip → TimerId → Prop} {c : Chip} {u : TimerId} {s : State} {h : Handle}
    (hq : QueueOrdered s) (ht : ((s.cia c).timer u).tick = some h) (hP : P c u → clocked (s.cia c) u = false)
    (hm : TicksMatchedOn (OtherUnits c u) s) : TicksMatchedOn P ((s.dequeue h).setTick c u none) := by
  obtain ⟨e, he, hs, ho⟩ := (hm c u).1.1 h ht
  intro k v
  by_cases hkv : k = c ∧ v = u
  · obtain ⟨rfl, rfl⟩ := hkv
    have htick := setTick_tick (s.dequeue h) k k v v none
    rw [if_pos ⟨rfl, rfl⟩] at htick
    refine ⟨⟨fun j hj => ?_, fun f hf hfo => ?_⟩, fun hp _ => ?_⟩
    · rw [htick] at hj; cases hj
    · rw [setTick_queue, mem_dequeue] at hf
      have := (hm k v).1.2 f hf.1 hfo
      rw [ht] at this
      exact absurd (Option.some.inj this).symm hf.2
    · unfold TickRuns
      rw [htick, setTick_clocked, State.dequeue_cia, hP hp]
      simp
  · have htick : ((((s.dequeue h).setTick c u none).cia k).timer v).tick = ((s.cia k).timer v).tick := by
      rw [setTick_tick, if_neg hkv, State.dequeue_cia]
    refine ⟨(hm k v).1.congr (fun f hf => ?_) htick, fun _ hst =>
      ((hm k v).2 hkv (by simpa using hst)).congr htick (by rw [setTick_clocked, State.dequeue_cia])⟩
    rw [setTick_queue, mem_dequeue, and_iff_left_iff_imp]
    intro hfm hfs
    rw [hq.seq_inj hfm he (hfs.trans hs.symm), ho] at hf
    cases hf
    exact hkv ⟨rfl, rfl⟩

/-- A unit's tick event and handle are added together (42_timer.md R243). -/
theorem TicksMatchedOn.add {P : Chip → TimerId → Prop} {c : Chip} {u : TimerId} {s : State}
    (ht : ((s.cia c).timer u).tick = none) (hc : clocked (s.cia c) u = true) (at' : Cycle) (p : Nat) (n : Handle)
    (hm : TicksMatchedOn (OtherUnits c u) s) :
    TicksMatchedOn P (({ s with
      queue := s.queue ++ [⟨at', p, s.nextSeq, .tick c u⟩], nextSeq := n } : State).setTick c u (some s.nextSeq)) := by
  intro k v
  have htick := setTick_tick { s with
    queue := s.queue ++ [⟨at', p, s.nextSeq, .tick c u⟩], nextSeq := n } c k u v (some s.nextSeq)
  have hcia : ({ s with queue := s.queue ++ [⟨at', p, s.nextSeq, .tick c u⟩], nextSeq := n } : State).cia k =
    s.cia k := cia_congr rfl rfl k
  by_cases hkv : k = c ∧ v = u
  · obtain ⟨rfl, rfl⟩ := hkv
    rw [if_pos ⟨rfl, rfl⟩] at htick
    refine ⟨⟨fun j hj => ?_, fun f hf hfo => ?_⟩, fun _ _ => ?_⟩
    · rw [htick] at hj
      cases hj
      exact ⟨_, by rw [setTick_queue]; exact List.mem_append_right _ (List.mem_singleton_self _), rfl, rfl⟩
    · rw [htick]
      rw [setTick_queue] at hf
      rcases List.mem_append.1 hf with hf | hf
      · rw [(hm k v).1.2 f hf hfo] at ht; cases ht
      · obtain rfl := List.mem_singleton.1 hf; rfl
    · unfold TickRuns
      rw [htick, setTick_clocked, hcia, hc]
      simp
  · rw [if_neg hkv, hcia] at htick
    refine ⟨(hm k v).1.congr (fun f hf => ?_) htick, fun _ hst =>
      ((hm k v).2 hkv (by rw [setTick_stopped] at hst; exact hst)).congr htick (by rw [setTick_clocked, hcia])⟩
    rw [setTick_queue, List.mem_append, or_iff_left_iff_imp]
    intro hfm
    obtain rfl := List.mem_singleton.1 hfm
    cases hf
    exact absurd ⟨rfl, rfl⟩ hkv

/-- `Reconcile` restores the invariant for its unit (42_timer.md R243). -/
theorem reconcile_ticksMatched {c : Chip} {u : TimerId} {s : State} (hq : QueueOrdered s)
    (hm : TicksMatchedOn (OtherUnits c u) s) : TicksMatched (settled (reconcile c u s)) := by
  rw [ticksMatched_iff]
  have stop : ∀ f, TicksMatchedOn (fun _ _ => True) (s.raiseFault f) := fun f k v =>
    ⟨(hm k v).1.congr (fun _ _ => Iff.rfl) (by simp), fun _ hst => by simp at hst⟩
  rcases reconcile_cases c u s with ⟨h, hc⟩ | ⟨k, hc, ht, h⟩ | ⟨hc, ht, ⟨_, h⟩ | ⟨_, h⟩ | ⟨_, _, h⟩⟩ <;> rw [h]
  · intro k v
    refine ⟨(hm k v).1, fun _ hst => ?_⟩
    by_cases hkv : k = c ∧ v = u
    · obtain ⟨rfl, rfl⟩ := hkv
      simp only [TickRuns, settled, hc]
    · exact (hm k v).2 hkv hst
  · exact hm.remove hq ht fun _ => hc
  · exact stop _
  · exact stop _
  · exact hm.add ht hc _ _ _

/-! ## A tick of a unit whose tick event has been removed -/

/-- What a tick does (42_timer.md R246, R249): it counts down, or expires, and an expiry of unit A may
tick unit B. -/
theorem tick_cases {c : Chip} {u : TimerId} {s t : State} (h : tick c u s = .ok t) :
    t = countDown c u s ∨ expireUnit c u s = .ok t ∨
    (u = .a ∧ ∃ r, expireUnit c .a s = .ok r ∧ cascaded (r.cia c) = true ∧
      (t = countDown c .b r ∨ expireUnit c .b r = .ok t)) := by
  have hB : ∀ {s}, tickB c s = .ok t → t = countDown c .b s ∨ expireUnit c .b s = .ok t := by
    intro s h
    unfold tickB at h
    split at h
    · exact .inr h
    · cases h; exact .inl rfl
  cases u with
  | b => rcases hB h with h | h <;> simp [h]
  | a =>
    simp only [tick, tickA] at h
    split at h
    · obtain ⟨r, hr⟩ := expireUnit_ok c .a s
      rw [hr] at h
      simp only [cascade] at h
      split at h
      · exact .inr (.inr ⟨rfl, r, hr, ‹_›, hB h⟩)
      · cases h; exact .inr (.inl hr)
    · cases h; exact .inl rfl

theorem countDown_ticksKept (P : Chip → TimerId → Prop) (c : Chip) (u : TimerId) (s : State) :
    TicksKept P s (countDown c u s) :=
  (Aside.setTimer rfl : Aside s (countDown c u s)).ticksKept P

theorem expireUnit_stopped {c : Chip} {u : TimerId} {s t : State} (h : expireUnit c u s = .ok t) :
    t.stopped = s.stopped := by
  unfold State.stopped
  rw [(expireUnit_quiet h).fault, (expireUnit_frame h).refusal]

/-- An expiry of a unit without a tick leaves all ticks; that unit alone may stop. -/
theorem expireUnit_ticksKept {P : Chip → TimerId → Prop} {c : Chip} {u : TimerId} {s t : State}
    (h : expireUnit c u s = .ok t) (ht : ((s.cia c).timer u).tick = none)
    (hP : P c u → clocked (s.cia c) u = false) : TicksKept P s t := by
  obtain ⟨hother, hunit⟩ := expireUnit_ticks h
  have hf := expireUnit_frame h
  have hqueue : t.queue = s.queue := by
    rcases hunit with ⟨-, -, hq⟩ | ⟨-, -, hq⟩
    · exact hq
    · rw [ht] at hq; exact hq
  constructor
  case queue => intro e k v _; rw [hqueue]
  case tick =>
    intro k v
    by_cases hk : k = c
    · subst k
      by_cases hv : v = u
      · subst v
        rcases hunit with ⟨hu, -⟩ | ⟨hu, -⟩
        · exact hu
        · rw [hu, ht]
      · rw [(hother v hv).1]
    · rw [hf.other k hk]
  case clocked =>
    intro k v hp
    by_cases hk : k = c
    · subst k
      by_cases hv : v = u
      · subst v
        rcases hunit with ⟨-, hu, -⟩ | ⟨-, hu, -⟩
        · exact clocked_congr hu
        · rw [hP hp, ← clocked_setControl_stopped (s.cia c) u ((s.cia c).control u)]
          exact clocked_congr (by rw [hu, Cia.control_setControl])
      · exact clocked_congr (hother v hv).2
    · rw [hf.other k hk]
  case stopped => exact fun hst => expireUnit_stopped h ▸ hst

/-- A tick of a unit without a tick event leaves all ticks: a unit B that the cascade ticks counts no
cycles, and so has none either. -/
theorem tick_ticksMatched {c : Chip} {u : TimerId} {s t : State} (h : tick c u s = .ok t) (hst : s.stopped = false)
    (ht : ((s.cia c).timer u).tick = none) (hm : TicksMatchedOn (OtherUnits c u) s) :
    TicksMatchedOn (OtherUnits c u) t := by
  have self : OtherUnits c u c u → clocked (s.cia c) u = false := fun hn => absurd ⟨rfl, rfl⟩ hn
  rcases tick_cases h with rfl | h | ⟨rfl, r, hr, hcas, h⟩
  · exact hm.kept (countDown_ticksKept _ c u s)
  · exact hm.kept (expireUnit_ticksKept h ht self)
  · have hmr := hm.kept (expireUnit_ticksKept hr ht self)
    have hb := not_clocked_of_cascaded hcas
    rcases h with rfl | h
    · exact hmr.kept (countDown_ticksKept _ c .b r)
    · have hbt := (hmr c .b).2 (by simp [OtherUnits]) ((expireUnit_stopped hr).trans hst)
      unfold TickRuns at hbt
      rw [hb] at hbt
      exact hmr.kept (expireUnit_ticksKept h (by simpa using hbt) fun _ => hb)

/-- Firing a tick event, which the sweep has removed (42_timer.md R247). -/
theorem fireTick_ticksMatched {s : State} {e : Event} {c : Chip} {u : TimerId} (hst : s.stopped = false)
    (hq : QueueOrdered s) (hm : TicksMatched s) (he : e ∈ s.queue) (ho : e.owner = .tick c u) :
    TicksMatched (settled (fireTick c u (s.dequeue e.seq))) := by
  obtain ⟨t, ht, h⟩ := settled_fireTick c u (s.dequeue e.seq)
  rw [h]
  rw [ticksMatched_iff] at hm
  have hm1 := (hm.mono (Q := OtherUnits c u) fun _ _ _ => trivial).remove (P := OtherUnits c u) hq
    ((hm c u).1.2 e he ho) (fun hn => absurd ⟨rfl, rfl⟩ hn)
  have hq1 := (grows_sublist (by simpa using (tick_quiet ht).queue) (by simp [(tick_quiet ht).nextSeq, State.setTick]) :
    QueueGrows (s.dequeue e.seq) t) (hq.dequeue e.seq)
  exact reconcile_ticksMatched hq1.1
    (tick_ticksMatched ht (by simpa using hst) (by rw [setTick_tick, if_pos ⟨rfl, rfl⟩]) hm1)

/-! ## Every step -/

/-- A control register write (42_timer.md R240). -/
theorem writeControl_ticksMatched {c : Chip} {u : TimerId} {v : Byte} {s : State} (hq : QueueOrdered s)
    (hm : TicksMatched s) : TicksMatched (settled (writeControl c u v s)) := by
  obtain ⟨x, hx, -, -, -, -, -, -, -, -, hother, htick⟩ := writeControl_split c u v s
  rw [hx]
  rw [ticksMatched_iff] at hm
  refine reconcile_ticksMatched (grows_same (by simp) (by simp) hq).1
    (TicksMatchedOn.kept (s := s) ?_ (hm.mono fun _ _ _ => trivial))
  constructor
  case queue => intro e k w _; simp
  case tick =>
    intro k w
    rw [State.cia_setCia_if]
    split
    · subst k
      by_cases hw : w = u
      · subst w; exact htick
      · rw [(hother w hw).2]
    · rfl
  case clocked =>
    intro k w hkw
    rw [State.cia_setCia_if]
    split
    · subst k; exact clocked_congr (hother w fun hw => hkw ⟨rfl, hw⟩).1
    · rfl
  case stopped => simp

theorem TicksMatched.kept {s t : State} (hm : TicksMatched s) (hk : TicksKept (fun _ _ => True) s t) :
    TicksMatched t :=
  ticksMatched_iff.2 ((ticksMatched_iff.1 hm).kept hk)

theorem TicksMatched.change {i : Instr} {s t : State} (hc : Change i s t) (hq : QueueOrdered s) (hm : TicksMatched s) :
    TicksMatched t := by
  cases hc
  case enqueue d p tag k _ he =>
    obtain ⟨_, rfl⟩ := enqueue_ok he
    refine hm.kept (.of_queue _ (fun e c u ho => ?_) (cia_congr rfl rfl) rfl)
    rw [List.mem_append, or_iff_left_iff_imp]
    intro hf
    obtain rfl := List.mem_singleton.1 hf
    cases ho
  case cancel k e tag he ho =>
    obtain ⟨hmem, rfl⟩ := eventOf_some he
    exact hm.kept (.of_queue _ (fun f c u hf => mem_dequeue_ext hq hmem ho hf) (by simp) rfl)
  case control c u v _ => exact writeControl_ticksMatched hq hm
  all_goals exact hm.kept (.of_queue _ (fun _ _ _ _ => Iff.rfl) (cia_congr rfl rfl) rfl)

theorem TicksMatched.sweepChange {rem : BitVec 64} {s t : State} (hst : s.stopped = false)
    (hc : SweepChange rem s t) (hq : QueueOrdered s) (hm : TicksMatched s) : TicksMatched t := by
  cases hc
  case fire e tag he ho =>
    exact hm.kept (.of_queue _ (fun f c u hf => mem_dequeue_ext hq he ho hf) (cia_congr rfl rfl) rfl)
  case tick e c u he ho => exact fireTick_ticksMatched hst hq hm he ho
  all_goals exact hm.kept (.of_queue _ (fun _ _ _ _ => Iff.rfl) (cia_congr rfl rfl) rfl)

/-- Settles O58: an event leaves or joins the queue together with its unit's handle, and `Reconcile` follows
every update that starts or stops a unit. -/
theorem ticksStayMatched : Obligations.TicksStayMatched := by
  intro s t hq hm h
  refine ⟨(step_grows h hq).1, ?_⟩
  obtain ⟨hst, ⟨rem, -, rfl⟩ | ⟨-, rfl | ⟨f, -, rfl⟩ | ⟨f, i, -, -, hx⟩⟩⟩ := step_cases h
  · obtain ⟨r, hr, ha⟩ := sweepStep_change rem s
    exact (hm.sweepChange hst hr hq).kept (ha.ticksKept _)
  · exact hm
  · exact hm.kept (((Aside.commands s f.rest).trans (.raiseFault _ _)).ticksKept _)
  · obtain ⟨r, hr, ha⟩ := exec_change hx
    exact ((hm.kept ((Aside.commands s f.rest).ticksKept _)).change hr hq).kept (ha.ticksKept _)

end Sys2Proof.Machine
end

section
/-! PROOFS. The control registers, the flags, the cartridge signals and the side signal (10_state.md R32,
R42, R45; 42_timer.md R240, R242, R262). -/

namespace Sys2Proof.Machine

/-! ## Legal values -/

theorem registersLegal_iff {s : State} :
    RegistersLegal s ↔ ∀ k, (∀ v, ControlLegal ((s.cia k).control v)) ∧ (s.cia k).flags.toNat < 4 := by
  refine forall_congr' fun k => ⟨fun ⟨ha, hb, hf⟩ => ⟨fun v => ?_, hf⟩, fun ⟨h, hf⟩ => ⟨h .a, h .b, hf⟩⟩
  cases v
  · exact ha
  · exact hb

/-- A unit that stops keeps a legal control register (42_timer.md R248). -/
theorem controlLegal_crStopped {cr : Byte} (h : ControlLegal cr) : ControlLegal (crStopped cr) := by
  unfold ControlLegal crStopped at *
  simpa using h.1

/-- LOAD is not stored, and what would run a unit on the CNT pin is refused (42_timer.md R240, R242). -/
theorem controlLegal_crStored {v : Byte} (h : crRunsOnCnt v = false) : ControlLegal (crStored v) := by
  unfold ControlLegal crStored crRunsOnCnt at *
  simpa using h

/-- An expiry sets flag 0 or 1 only (42_timer.md R248). -/
theorem setFlag_lt {f : BitVec 5} (u : TimerId) (h : f.toNat < 4) : (setFlag f u).toNat < 4 := by
  cases u <;> (revert f; decide)

/-! ## Updates of the registers -/

/-- The control registers and the flags stay. -/
def RegistersKept (s t : State) : Prop :=
  ∀ k, (∀ v, (t.cia k).control v = (s.cia k).control v) ∧ (t.cia k).flags = (s.cia k).flags

theorem RegistersKept.of_cia {s t : State} (h1 : t.cia1 = s.cia1) (h2 : t.cia2 = s.cia2) : RegistersKept s t :=
  fun k => by rw [cia_congr h1 h2 k]; exact ⟨fun _ => rfl, rfl⟩

theorem RegistersLegal.kept {s t : State} (hk : RegistersKept s t) (h : RegistersLegal s) : RegistersLegal t := by
  rw [registersLegal_iff] at h ⊢
  intro k
  obtain ⟨hc, hf⟩ := hk k
  rw [hf]
  exact ⟨fun v => by rw [hc v]; exact (h k).1 v, (h k).2⟩

theorem RegistersLegal.aside {s t : State} (ha : Aside s t) (h : RegistersLegal s) : RegistersLegal t := by
  rw [registersLegal_iff] at h ⊢
  intro k
  refine ⟨fun v => by rw [ha.control]; exact (h k).1 v, ?_⟩
  rcases ha.flags k with hf | hf
  · rw [hf]; exact (h k).2
  · rw [hf]; decide

/-- One chip's update, to legal registers. -/
theorem RegistersLegal.setCia {s : State} {c : Chip} {x : Cia} (hc : ∀ v, ControlLegal (x.control v))
    (hf : x.flags.toNat < 4) (h : RegistersLegal s) : RegistersLegal (s.setCia c x) := by
  rw [registersLegal_iff] at h ⊢
  intro k
  rw [State.cia_setCia_if]
  split
  · exact ⟨hc, hf⟩
  · exact h k

/-- `Reconcile` changes no register (42_timer.md R243). -/
theorem reconcile_registersKept (c : Chip) (u : TimerId) (s : State) : RegistersKept s (settled (reconcile c u s)) := by
  intro k
  rcases reconcile_cases c u s with ⟨h, _⟩ | ⟨_, _, _, h⟩ | ⟨_, _, ⟨_, h⟩ | ⟨_, h⟩ | ⟨_, _, h⟩⟩ <;> rw [h] <;>
    simp only [settled, setTick_control, setTick_flags, State.dequeue_cia, State.raiseFault_cia, implies_true,
      and_self]
  cases k <;> exact ⟨fun _ => rfl, rfl⟩

theorem expireInterrupt_registersKept (c : Chip) (u : TimerId) (s : State) : RegistersKept s (expireInterrupt c u s) := by
  intro k
  by_cases hk : k = c
  · subst k
    obtain ⟨-, -, -, -, hunits⟩ := expireInterrupt_quiet c u s
    refine ⟨fun v => (hunits v).2, ?_⟩
    unfold expireInterrupt
    dsimp only
    split <;> simp
  · rw [(expireInterrupt_frame c u s).other k hk]
    exact ⟨fun _ => rfl, rfl⟩

theorem expireUnit_registersLegal {c : Chip} {u : TimerId} {s t : State} (h : expireUnit c u s = .ok t)
    (hl : RegistersLegal s) : RegistersLegal t := by
  obtain ⟨x, q, rfl, hf, -, -, hother, hunit⟩ := expireUnit_split h
  obtain ⟨hc, hfl⟩ := registersLegal_iff.1 hl c
  have hx : ∀ v, ControlLegal (x.control v) := by
    intro v
    by_cases hv : v = u
    · subst v
      rcases hunit with ⟨-, hu, -⟩ | ⟨-, hu, -⟩ <;> rw [hu]
      · exact hc u
      · exact controlLegal_crStopped (hc u)
    · rw [(hother v hv).2]; exact hc v
  refine RegistersLegal.kept (expireInterrupt_registersKept c u _) ?_
  refine RegistersLegal.kept (s := s.setCia c x) (.of_cia rfl rfl) ?_
  exact hl.setCia hx (hf ▸ setFlag_lt u hfl)

theorem countDown_registersLegal (c : Chip) (u : TimerId) {s : State} (hl : RegistersLegal s) :
    RegistersLegal (countDown c u s) :=
  hl.aside (Aside.setTimer rfl)

theorem tick_registersLegal {c : Chip} {u : TimerId} {s t : State} (h : tick c u s = .ok t)
    (hl : RegistersLegal s) : RegistersLegal t := by
  rcases tick_cases h with rfl | h | ⟨-, r, hr, -, rfl | h⟩
  · exact countDown_registersLegal c u hl
  · exact expireUnit_registersLegal h hl
  · exact countDown_registersLegal c .b (expireUnit_registersLegal hr hl)
  · exact expireUnit_registersLegal h (expireUnit_registersLegal hr hl)

theorem fireTick_registersLegal (c : Chip) (u : TimerId) {s : State} (hl : RegistersLegal s) :
    RegistersLegal (settled (fireTick c u s)) := by
  obtain ⟨t, ht, h⟩ := settled_fireTick c u s
  rw [h]
  exact .kept (reconcile_registersKept c u t)
    (tick_registersLegal ht (hl.kept fun k => ⟨fun v => setTick_control s c k u v none, setTick_flags s c k u none⟩))

theorem writeControl_registersLegal {c : Chip} {u : TimerId} {v : Byte} {s : State} (hv : crRunsOnCnt v = false)
    (hl : RegistersLegal s) : RegistersLegal (settled (writeControl c u v s)) := by
  obtain ⟨x, hx, -, -, -, -, -, hf, -, hu, hother, -⟩ := writeControl_split c u v s
  obtain ⟨hc, hfl⟩ := registersLegal_iff.1 hl c
  rw [hx]
  refine .kept (reconcile_registersKept c u _) (hl.setCia (fun w => ?_) (hf ▸ hfl))
  by_cases hw : w = u
  · subst w; rw [hu]; exact controlLegal_crStored hv
  · rw [(hother w hw).1]; exact hc w

/-! ## Every step -/

/-- The registers, the cartridge signals and the side signal hold what the rules allow. -/
def SignalsLegal (s : State) : Prop := RegistersLegal s ∧ CartConsistent s ∧ SideMatched s

theorem CartConsistent.of_eq {s t : State} (hcart : t.cart = s.cart) (h : CartConsistent s) : CartConsistent t := by
  unfold CartConsistent
  rw [hcart]
  exact h

/-- Counting leaves the side signal and its line. -/
theorem CountFrame.sideMatched {c : Chip} {s t : State} (hf : CountFrame c s t) (h : SideMatched s) : SideMatched t := by
  have hline : t.cia1.prb = s.cia1.prb ∧ t.cia1.ddrb = s.cia1.ddrb := by
    cases c with
    | cia1 => exact ⟨hf.prb, hf.ddrb⟩
    | cia2 =>
      have h1 : t.cia1 = s.cia1 := hf.other .cia1 nofun
      exact ⟨by rw [h1], by rw [h1]⟩
  unfold SideMatched sideLevel at *
  rw [hf.side, hline.1, hline.2, h]

theorem SignalsLegal.aside {s t : State} (ha : Aside s t) (h : SignalsLegal s) : SignalsLegal t := by
  obtain ⟨hr, hc, hs⟩ := h
  exact ⟨hr.aside ha, hc.of_eq ha.cart, ha.side hs⟩

theorem SignalsLegal.change {i : Instr} {s t : State} (hi : ∀ p e g, i = .cart p e g → (p || (e && g)) = true)
    (hch : Change i s t) (h : SignalsLegal s) : SignalsLegal t := by
  obtain ⟨hr, hc, hs⟩ := h
  cases hch
  case cart p e g hcart =>
    refine ⟨hr.kept (.of_cia rfl rfl), fun hp => ?_, hs⟩
    have := hi p e g hcart
    simp only at hp
    simpa [hp] using this
  case enqueue he =>
    obtain ⟨_, rfl⟩ := enqueue_ok he
    exact ⟨hr.kept (.of_cia rfl rfl), hc, hs⟩
  case control c u v hv =>
    have hf := writeControl_frame c u v s
    exact ⟨writeControl_registersLegal hv hr, hc.of_eq hf.cart, hf.sideMatched hs⟩
  all_goals exact ⟨hr.kept (.of_cia rfl rfl), hc, hs⟩

theorem SignalsLegal.sweepChange {rem : BitVec 64} {s t : State} (hch : SweepChange rem s t) (h : SignalsLegal s) :
    SignalsLegal t := by
  obtain ⟨hr, hc, hs⟩ := h
  cases hch
  case tick e c u _ _ =>
    have hf := (CountFrame.dequeue c s e.seq).trans (fireTick_frame c u _)
    exact ⟨fireTick_registersLegal c u (hr.kept (.of_cia rfl rfl)), hc.of_eq hf.cart,
      hf.sideMatched hs⟩
  all_goals exact ⟨hr.kept (.of_cia rfl rfl), hc, hs⟩

/-- Settles O60: a control register takes only a stored value or loses START, a flag is set only by an expiry,
the decoder refuses the illegal cartridge lines, and the side signal is updated with its line. -/
theorem registersStayLegal : Obligations.RegistersStayLegal := fun _ _ =>
  step_invariant (P := SignalsLegal) .aside .change fun _ _ => .sweepChange

end Sys2Proof.Machine
end

section
/-! PROOFS. Power-on and reset (10_state.md R48; 70_reset_and_hazards.md R351 to R353). -/

namespace Sys2Proof.Machine

/-- A cell of storage built from contents holds the last entry given for it. -/
theorem Store.read_ofCells {n w : Nat} (cells : List (BitVec n × BitVec w)) (a : BitVec n) :
    Store.read (Store.ofCells cells) a.toNat =
      ((cells.reverse.find? fun c => c.1 == a).map (·.2)).getD (unlisted w) := by
  induction cells using List.reverseRecOn with
  | nil => rfl
  | append_singleton cs c ih =>
    have hwrite : Store.ofCells (cs ++ [c]) = Store.write (Store.ofCells cs) c.1.toNat c.2 := by
      simp [Store.ofCells]
    rw [hwrite, Store.read_write (Store.ofCells_wf (le_refl _) cs), List.reverse_append, List.reverse_singleton,
      List.singleton_append, List.find?_cons, ih]
    by_cases h : c.1 = a
    · simp [h]
    · have hn : c.1.toNat ≠ a.toNat := fun hn => h (BitVec.eq_of_toNat_eq hn)
      simp [beq_eq_false_iff_ne.2 h, hn]

theorem State.powerOn_of_valid {p : Params} (h : paramsValid p = true) : State.powerOn p = powerOnFields p := if_pos h

/-- The mode number at power-on (10_state.md R48): every PLA input is 1. -/
theorem powerOnFields_mode (p : Params) : (powerOnFields p).mode = 31 := by
  simp [State.mode, State.mapConfig, powerOnFields, MapConfig.inputs, pinLevel, PlaInputs.mode]

/-- Settles O11: power-on with valid parameters leaves `powerOnFields`. -/
theorem powerOnValues : Obligations.PowerOnValues := by
  intro p hp
  rw [State.powerOn_of_valid hp]
  refine ⟨rfl, rfl, rfl, rfl, Store.read_ofCells p.ramInit, Store.read_ofCells p.colorInit, rfl, rfl, rfl, rfl, rfl, rfl,
    fun c => ?_, rfl, fun l i => ?_, rfl, rfl, rfl, rfl, powerOnFields_mode p, rfl⟩
  · have hc : (powerOnFields p).cia c = Cia.reset := by cases c <;> rfl
    rw [hc]
    exact ⟨rfl, rfl, rfl, rfl, fun u => by cases u <;> exact ⟨rfl, rfl, rfl, rfl⟩, rfl, rfl, rfl⟩
  · cases l <;> exact levelOf_replicate i

/-! ## Reset -/

theorem paramsValid_default : paramsValid Params.default = true := by
  simp [paramsValid, Params.default, tablesValid_default]

/-- Reset is power-on with the default parameters. -/
theorem reset_eq_powerOn : State.reset = State.powerOn Params.default := by
  rw [State.powerOn_of_valid paramsValid_default]
  rfl

theorem reset_cia (c : Chip) : State.reset.cia c = Cia.reset := by cases c <;> rfl

/-- No unit has a tick at reset, none is queued, and none is clocked. -/
theorem reset_ticksMatched : TicksMatched State.reset := by
  intro c u
  rw [reset_cia]
  have ht : (Cia.reset.timer u).tick = none := by cases u <;> rfl
  have hc : clocked Cia.reset u = false := by cases u <;> rfl
  rw [ht, hc]
  exact ⟨nofun, nofun, fun _ => by simp⟩

theorem reset_levelsMatched : LevelsMatched State.reset :=
  ⟨levelOf_replicate 0#4, levelOf_replicate 0#4, by decide⟩

theorem reset_registersLegal : RegistersLegal State.reset := by
  intro c
  rw [reset_cia]
  unfold ControlLegal
  decide

/-- Settles O14: at reset the queue and the output are empty, and every register is 0. -/
theorem invariantsHoldAtReset : Obligations.InvariantsHoldAtReset :=
  ⟨State.reset_storage_wf, ⟨.nil, nofun⟩, awaitedGone_of_not_await nofun, nofun, reset_ticksMatched,
    reset_levelsMatched, reset_registersLegal, fun _ => ⟨rfl, rfl⟩, rfl, trivial, ⟨nofun, .nil⟩, reset_eq_powerOn,
    paramsValid_default⟩

end Sys2Proof.Machine
end

section
/-! PROOFS. The router (20_memory.md): the check of binding tables (R86) and what it gives (R70, R83), and the
complete map of the default tables (R84). -/

namespace Sys2Proof

/-! ## What the check of binding tables asks (R86) -/

/-- What R86 asks of a table's entry for a region: a Bank other than `PORT`, or `IO` in region 0xD with every
page naming such a Bank. -/
def BindingTable.Binds (t : BindingTable) (row r : Nat) : Prop :=
  (∃ b, b ≠ Bank.port ∧ t.region row r = some (.bank b)) ∨
  (r = 0xD ∧ t.region row r = some .io ∧ ∀ pg < 16, ∃ b, b ≠ Bank.port ∧ t.page row pg = some (.bank b))

theorem bankEntryValid_iff (e : Option Target) :
    bankEntryValid e = true ↔ ∃ b, b ≠ Bank.port ∧ e = some (.bank b) := by
  match e with
  | some (.bank b) => simp [bankEntryValid]
  | some .io => simp [bankEntryValid]
  | none => simp [bankEntryValid]

theorem regionEntryValid_iff (t : BindingTable) (row r : Nat) :
    regionEntryValid t row r = true ↔ t.Binds row r := by
  unfold regionEntryValid BindingTable.Binds
  split
  case h_1 hio => simp [hio, bankEntryValid_iff]
  case h_2 hio => exact (bankEntryValid_iff _).trans ⟨.inl, fun h => h.resolve_right fun ⟨_, he, _⟩ => hio he⟩

theorem tableValid_some_iff (t : BindingTable) :
    tableValid (some t) = true ↔ ∀ row < 64, ∀ r < 16, t.Binds row r := by
  simp [tableValid, regionEntryValid_iff]

theorem tableValid_iff (o : Option BindingTable) :
    tableValid o = true ↔ ∀ t, o = some t → ∀ row < 64, ∀ r < 16, t.Binds row r := by
  cases o with
  | none => exact iff_of_true rfl nofun
  | some t => simp [tableValid_some_iff]

theorem ioAgrees_iff (rt wt : Option BindingTable) :
    ioAgrees rt wt = true ↔ ∀ row < 64, readRegion rt (PlaInputs.ofRow row) 0xD#4 = some .io ↔
      writeRegion rt wt (PlaInputs.ofRow row) 0xD#4 = some .io := by
  simp [ioAgrees]

/-- The check of a pair of tables: every entry of a table that is given binds, and `IO` agrees. -/
theorem tablesValid_iff (rt wt : Option BindingTable) :
    tablesValid rt wt = true ↔
      (∀ t, rt = some t ∨ wt = some t → ∀ row < 64, ∀ r < 16, t.Binds row r) ∧
      (∀ row < 64, readRegion rt (PlaInputs.ofRow row) 0xD#4 = some .io ↔
        writeRegion rt wt (PlaInputs.ofRow row) 0xD#4 = some .io) := by
  simp only [tablesValid, Bool.and_eq_true, tableValid_iff, ioAgrees_iff, or_imp, forall_and]

/-! ## The default write table beside a read table (R82) -/

theorem writeRegion_default_regionD (rt : Option BindingTable) (p : PlaInputs) :
    writeRegion rt none p 0xD#4 = if readRegion rt p 0xD#4 = some .io then some .io else some (.bank .ram) := by
  simp [writeRegion, plaWriteDefault, apply_ite some]

/-- A table agrees with itself on `IO`. -/
theorem ioAgrees_self (rt : Option BindingTable) : ioAgrees rt rt = true := by
  cases rt with
  | none => exact ioAgrees_defaultWrite none
  | some t => exact (ioAgrees_iff _ _).2 fun _ _ => Iff.rfl

theorem tablesValid_self (rt : Option BindingTable) : tablesValid rt rt = tableValid rt := by
  simp [tablesValid, ioAgrees_self]

/-! ## The Bank an entry leads to -/

theorem plaWriteDefault_ne_port (p : PlaInputs) (d : Option Target) (r : BitVec 4) :
    plaWriteDefault p d r ≠ .bank .port := by
  rcases plaWriteDefault_cases p d r with h | h | h | h | ⟨h, -⟩ <;> rw [h] <;> nofun

/-- The default write table has `IO` in region 0xD only. -/
theorem plaWriteDefault_io {p : PlaInputs} {d : Option Target} {r : BitVec 4} (h : plaWriteDefault p d r = .io) :
    r = 0xD#4 := by
  rcases plaWriteDefault_cases p d r with h' | h' | h' | h' | ⟨-, hr, -⟩
  case inr.inr.inr.inr => exact hr
  all_goals rw [h] at h'; cases h'

/-- The Bank of an entry under the default pages of `IO` (R81). -/
def defaultBank (p : PlaInputs) (pg : BitVec 4) : Target → Bank
  | .bank b => b
  | .io => ioDecodeDefault p pg

theorem defaultBank_ne_port {e : Target} (he : e ≠ .bank .port) (p : PlaInputs) (pg : BitVec 4) :
    defaultBank p pg e ≠ .port := by
  cases e with
  | bank b => rintro rfl; exact he rfl
  | io => exact ioDecodeDefault_ne_port p pg

theorem entryBank_bank {b : Bank} (hb : b ≠ .port) (pages : Option Target) :
    entryBank (some (.bank b)) pages = some b := if_neg hb

theorem entryBank_io {b : Bank} (hb : b ≠ .port) : entryBank (some .io) (some (.bank b)) = some b := if_neg hb

theorem entryBank_default {e : Target} (he : e ≠ .bank .port) (p : PlaInputs) (pg : BitVec 4) :
    entryBank (some e) (pageEntry none p pg) = some (defaultBank p pg e) := by
  cases e with
  | bank b => exact entryBank_bank (defaultBank_ne_port he p pg) _
  | io => exact entryBank_io (ioDecodeDefault_ne_port p pg)

/-! ## Every address is bound (R70, R83) -/

/-- An access leads to a Bank other than `PORT`. -/
def LeadsToBank (e pages : Option Target) : Prop := ∃ b, b ≠ Bank.port ∧ entryBank e pages = some b

theorem LeadsToBank.default {e : Target} (he : e ≠ .bank .port) (p : PlaInputs) (pg : BitVec 4) :
    LeadsToBank (some e) (pageEntry none p pg) :=
  ⟨_, defaultBank_ne_port he p pg, entryBank_default he p pg⟩

/-- Every entry of a table that passes the check leads to a Bank, in every configuration. -/
theorem LeadsToBank.table {t : BindingTable} (ht : tableValid (some t) = true) (p : PlaInputs) (r pg : BitVec 4) :
    LeadsToBank (t.region p.row r.toNat) (t.page p.row pg.toNat) := by
  rcases (tableValid_some_iff t).1 ht p.row p.row_lt r.toNat r.isLt with ⟨b, hb, he⟩ | ⟨-, he, hpages⟩
  · rw [he]; exact ⟨b, hb, entryBank_bank hb _⟩
  · obtain ⟨b, hb, hpg⟩ := hpages pg.toNat pg.isLt
    rw [he, hpg]; exact ⟨b, hb, entryBank_io hb⟩

theorem LeadsToBank.read {rt : Option BindingTable} (h : tableValid rt = true) (p : PlaInputs) (r pg : BitVec 4) :
    LeadsToBank (readRegion rt p r) (pageEntry rt p pg) := by
  cases rt with
  | none => exact .default (plaReadDefault_ne_port p r) p pg
  | some t => exact .table h p r pg

theorem LeadsToBank.write {wt : Option BindingTable} (h : tableValid wt = true) (rt : Option BindingTable)
    (p : PlaInputs) (r pg : BitVec 4) : LeadsToBank (writeRegion rt wt p r) (pageEntry wt p pg) := by
  cases wt with
  | none => exact .default (plaWriteDefault_ne_port p _ r) p pg
  | some t => exact .table h p r pg

/-- An access whose entry leads to a Bank has one, and it is `PORT` at the port addresses only (R83). -/
theorem LeadsToBank.exists_bank {e pages : Option Target} (h : LeadsToBank e pages) (a : Addr) :
    ∃ b, (if isPortAddr a then some .port else entryBank e pages) = some b ∧ (b = .port ↔ isPortAddr a = true) := by
  obtain ⟨b, hb, he⟩ := h
  by_cases hp : isPortAddr a = true
  · exact ⟨.port, if_pos hp, iff_of_true rfl hp⟩
  · exact ⟨b, (if_neg hp).trans he, iff_of_false hb hp⟩

/-- Settles O13: an entry that passes the check is a Bank or `IO` whose pages are Banks, and the default tables
have such entries. -/
theorem tableCheckBindsEveryAddress : Obligations.TableCheckBindsEveryAddress := by
  refine ⟨tablesValid_iff, fun rt p => ⟨writeRegion_default_regionD rt p, ?_⟩, fun c a h => ?_⟩
  · rw [tablesValid_defaultWrite, tablesValid_self]
  · simp only [tablesValid, Bool.and_eq_true] at h
    obtain ⟨⟨hr, hw⟩, -⟩ := h
    obtain ⟨b, hb, hbp⟩ := (LeadsToBank.read hr c.inputs (region a) (page a)).exists_bank a
    obtain ⟨b', hb', hbp'⟩ := (LeadsToBank.write hw c.plaRead c.inputs (region a) (page a)).exists_bank a
    exact ⟨b, b', hb, hb', hbp, hbp'⟩

/-! ## The mode number (R78) -/

/-- The bits of the mode number are the PLA's inputs. -/
theorem PlaInputs.mode_testBit (p : PlaInputs) :
    p.mode.testBit 0 = p.loram ∧ p.mode.testBit 1 = p.hiram ∧ p.mode.testBit 2 = p.charen ∧
      p.mode.testBit 3 = p.game ∧ p.mode.testBit 4 = p.exrom := by
  obtain ⟨exrom, game, charen, hiram, loram, present⟩ := p
  revert exrom game charen hiram loram present
  decide

end Sys2Proof

namespace Sys2Proof.Machine

/-! ## The complete map (R84) -/

/-- The column of R84's table a region stands in. -/
def regionColumn (r : BitVec 4) : Nat :=
  let n := r.toNat
  if n < 0x1 then 0
  else if n < 0x8 then 1
  else if n < 0xA then 2
  else if n < 0xC then 3
  else if n < 0xD then 4
  else if n < 0xE then 5
  else 6

theorem mapColumn_eq (a : Addr) : mapColumn a = regionColumn (region a) := by
  have below (k : Nat) : a.toNat / 4096 < k ↔ a.toNat < k * 4096 := Nat.div_lt_iff_lt_mul (by decide)
  simp only [mapColumn, regionColumn, region_toNat, below]

/-- The cell of the complete map that the default tables give (R80, R82). -/
def defaultCell (p : PlaInputs) (r : BitVec 4) : MapCell :=
  ⟨plaReadDefault p r, plaWriteDefault p (some (plaReadDefault p 0xD#4)) r⟩

/-- R84's table, cell by cell, is the default tables: 32 modes of 16 regions. -/
theorem mapRows_default (p : PlaInputs) (r : BitVec 4) :
    ∃ row, mapRows[p.mode]? = some row ∧ row[regionColumn r]? = some (defaultCell p r) := by
  obtain ⟨exrom, game, charen, hiram, loram, present⟩ := p
  suffices h : ∀ exrom game charen hiram loram : Bool, ∀ r : BitVec 4,
      ((mapRows[PlaInputs.mode ⟨exrom, game, charen, hiram, loram, false⟩]?).bind (·[regionColumn r]?)) =
        some (defaultCell ⟨exrom, game, charen, hiram, loram, false⟩ r) from
    Option.bind_eq_some_iff.1 (h exrom game charen hiram loram r)
  decide

/-- R81's pages, by the address: in region 0xD page `k` begins at 0xD000 + 256 * k. -/
theorem ioDecodeDefault_page (p : PlaInputs) {a : Addr} (h : region a = 0xD#4) :
    ioDecodeDefault p (page a) = ioMap p.present a := by
  have hr : a.toNat / 4096 = 0xD := by rw [← region_toNat, h]; rfl
  have h4 : a.toNat < 0xD400 ↔ a.toNat / 256 % 16 < 0x4 := by omega
  have h8 : a.toNat < 0xD800 ↔ a.toNat / 256 % 16 < 0x8 := by omega
  have hC : a.toNat < 0xDC00 ↔ a.toNat / 256 % 16 < 0xC := by omega
  have hD : a.toNat < 0xDD00 ↔ a.toNat / 256 % 16 < 0xD := by omega
  have hE : a.toNat < 0xDE00 ↔ a.toNat / 256 % 16 < 0xE := by omega
  have hF : a.toNat < 0xDF00 ↔ a.toNat / 256 % 16 < 0xF := by omega
  simp only [ioDecodeDefault, ioMap, page_toNat, h4, h8, hC, hD, hE, hF]
  have hlt : a.toNat / 256 % 16 < 16 := Nat.mod_lt _ (by decide)
  generalize a.toNat / 256 % 16 = n at hlt
  interval_cases n <;> rfl

theorem defaultBank_eq_targetBank (p : PlaInputs) {a : Addr} {e : Target} (h : e = .io → region a = 0xD#4) :
    defaultBank p (page a) e = targetBank p.present a e := by
  cases e with
  | bank b => rfl
  | io => exact ioDecodeDefault_page p (h rfl)

/-- Under the default tables an address other than the port's reads from its cell of the map. -/
theorem readBank_default {c : MapConfig} {a : Addr} (hr : c.plaRead = none) (ha : isPortAddr a = false) :
    readBank c a = some (targetBank c.cart.present a (defaultCell c.inputs (region a)).read) := by
  rw [readBank, if_neg (Bool.eq_false_iff.1 ha), hr]
  exact (entryBank_default (plaReadDefault_ne_port _ _) _ _).trans
    (congrArg some (defaultBank_eq_targetBank c.inputs plaReadDefault_io))

/-- Under the default tables an address other than the port's writes to its cell of the map. -/
theorem writeBank_default {c : MapConfig} {a : Addr} (hr : c.plaRead = none) (hw : c.plaWrite = none)
    (ha : isPortAddr a = false) :
    writeBank c a = some (targetBank c.cart.present a (defaultCell c.inputs (region a)).write) := by
  rw [writeBank, if_neg (Bool.eq_false_iff.1 ha), hr, hw]
  exact (entryBank_default (plaWriteDefault_ne_port _ _ _) _ _).trans
    (congrArg some (defaultBank_eq_targetBank c.inputs plaWriteDefault_io))

/-- Settles O15: R84's table is the default tables' cells, and R81's pages are the addresses of the I/O block. -/
theorem defaultMapOfEveryMode : Obligations.DefaultMapOfEveryMode := by
  intro s a hr hw
  obtain ⟨hloram, hhiram, hcharen, hgame, hexrom⟩ := s.mapConfig.inputs.mode_testBit
  refine ⟨fun i hi => ?_, hgame, hexrom, s.mapConfig.inputs.mode_lt, fun ha => ⟨if_pos ha, if_pos ha⟩, fun ha => ?_⟩
  · interval_cases i
    · exact hloram
    · exact hhiram
    · exact hcharen
  · obtain ⟨row, hrow, hcell⟩ := mapRows_default s.mapConfig.inputs (region a)
    exact ⟨row, _, hrow, (mapColumn_eq a).symm ▸ hcell, readBank_default hr ha, writeBank_default hr hw ha⟩

end Sys2Proof.Machine
end

section
/-! PROOFS. What an instruction does to storage (20_memory.md R83, R89; 41_address_space.md R183, R190), and
RAM read back under the ROMs (R92). -/

namespace Sys2Proof.Machine

/-! ## The frame of storage -/

/-- What an instruction does to storage: nothing, the store of one byte of RAM, or the store of one nibble of
colour RAM. -/
inductive StorageEffect (i : Instr) (s t : State) : Prop
  | kept (hram : t.ram = s.ram) (hcolor : t.color = s.color)
  | ram (a : Addr) (v : Byte) (ha : ramStore s i = some a) (hram : t.ram = Memory.write s.ram a v)
      (hcolor : t.color = s.color)
  | color (k : BitVec 10) (v : BitVec 4) (hk : colorStore s i = some k) (hram : t.ram = s.ram)
      (hcolor : t.color = ColorRam.write s.color k v)

theorem StorageEffect.of_aside {i : Instr} {s t : State} (h : Aside s t) : StorageEffect i s t := .kept h.ram h.color

theorem Effect.storage {i : Instr} {s t : State} (he : Effect i s t) : StorageEffect i s t := by
  cases he
  case ram a v hi =>
    refine .ram a v ?_ rfl rfl
    obtain rfl | ⟨rfl, hb⟩ := hi
    · rfl
    · exact if_pos hb
  case color a v hi =>
    refine .color (colorIndex a) (v.extractLsb' 0 4) ?_ rfl rfl
    obtain rfl | ⟨rfl, hb⟩ := hi
    · rfl
    · exact if_pos hb
  case schedule hq => obtain ⟨_, rfl⟩ := enqueue_ok hq; exact .kept rfl rfl
  case scheduleStop hq => obtain ⟨_, rfl⟩ := enqueue_error hq; exact .kept rfl rfl
  case assert l src b _ => exact .of_aside ((Aside.assertLine s l src b).trans (.emit _ _))
  case ciaPort c p v => exact .of_aside ((Aside.portData c p v s).trans (.emit _ _))
  case ciaDir c p v => exact .of_aside ((Aside.portDir c p v s).trans (.emit _ _))
  case ciaLow c u v => exact .of_aside ((Aside.setLatch c u _ s).trans (.emit _ _))
  case ciaHigh c u v => exact .of_aside ((Aside.writeTimerHigh c u v s).trans (.emit _ _))
  case icrRead c => exact .of_aside ((Aside.clearIcr c s).trans (.emit _ _))
  case icrWrite c v => exact .of_aside ((Aside.writeMask c v s).trans (.emit _ _))
  case control c u v r _ hr =>
    have hf := writeControl_frame c u v s
    rw [hr] at hf
    exact .kept hf.ram hf.color
  case controlStop c u v _ hr =>
    have hf := writeControl_frame c u v s
    rw [hr] at hf
    exact .kept hf.ram hf.color
  all_goals exact .kept rfl rfl

theorem ramStore_write (s : State) (a : Addr) (v : Byte) :
    ramStore s (.write a v) = if writeBank s.mapConfig a = some .ram then some a else none := rfl

/-- A `WRITE` stores to RAM at its own address, and a port address does not reach RAM (R83). -/
theorem ramStore_write_ne_port (s : State) (a : Addr) (v : Byte) {b : Addr} (hb : isPortAddr b = true) :
    ramStore s (.write a v) ≠ some b := by
  rw [ramStore_write]
  split
  case isTrue hram =>
    rintro ⟨rfl⟩
    rw [writeBank, if_pos hb] at hram
    cases hram
  case isFalse => nofun

theorem sweepStep_storage (rem : BitVec 64) (s : State) :
    (sweepStep rem s).ram = s.ram ∧ (sweepStep rem s).color = s.color := by
  obtain ⟨r, hr, ha⟩ := sweepStep_change rem s
  rw [ha.ram, ha.color]
  cases hr
  case tick e c u _ _ => exact ⟨(fireTick_frame c u _).ram, (fireTick_frame c u _).color⟩
  all_goals exact ⟨rfl, rfl⟩

/-- Settles O25: an instruction's one store is at the address it names. -/
theorem storageFrame : Obligations.StorageFrame := by
  refine ⟨fun i s t h hc => ?_, fun s a v => ⟨ramStore_write_ne_port s a v rfl, ramStore_write_ne_port s a v rfl⟩,
    sweepStep_storage⟩
  obtain ⟨hram, hcolor⟩ := hc
  rcases (exec_effect h).storage with ⟨hr, hk⟩ | ⟨a, v, ha, hr, hk⟩ | ⟨k, v, hk', hr, hk⟩ <;> rw [hr, hk]
  · exact ⟨fun _ _ => rfl, fun _ _ => rfl⟩
  · refine ⟨fun b hb => ?_, fun _ _ => rfl⟩
    rw [Memory.read_write hram, if_neg]
    rintro rfl
    exact hb ha
  · refine ⟨fun _ _ => rfl, fun j hj => ?_⟩
    rw [ColorRam.read_write hcolor, if_neg]
    rintro rfl
    exact hj hk'

/-! ## A byte of RAM read back (R92, R362) -/

theorem exec_read (s : State) (a : Addr) : exec (.read a) s = execRead a s := rfl

theorem exec_write (s : State) (a : Addr) (v : Byte) : exec (.write a v) s = execWrite a v s := rfl

theorem exec_read_ram {s : State} {a : Addr} (h : readBank s.mapConfig a = some .ram) :
    exec (.read a) s = execReadRam a s := by
  rw [exec_read, execRead, h]

theorem exec_read_basic {s : State} {a : Addr} (h : readBank s.mapConfig a = some .basic) :
    exec (.read a) s = execReadBasic a s := by
  rw [exec_read, execRead, h]

theorem exec_read_kernal {s : State} {a : Addr} (h : readBank s.mapConfig a = some .kernal) :
    exec (.read a) s = execReadKernal a s := by
  rw [exec_read, execRead, h]

theorem exec_read_char {s : State} {a : Addr} (h : readBank s.mapConfig a = some .char) :
    exec (.read a) s = execReadChar a s := by
  rw [exec_read, execRead, h]

/-- What a `WRITE` that reaches RAM leaves for the next `READ` to see. -/
theorem exec_write_ram {s t : State} {a : Addr} {v : Byte} (hb : writeBank s.mapConfig a = some .ram)
    (h : exec (.write a v) s = .next t) :
    t.cfg = s.cfg ∧ t.mapConfig = s.mapConfig ∧ t.ram = Memory.write s.ram a v := by
  rw [exec_write, execWrite, hb] at h
  cases h
  exact ⟨rfl, rfl, rfl⟩

/-- Settles O26: a write of RAM stores its byte and leaves the bindings and the ROM images. -/
theorem writeThenRead : Obligations.WriteThenRead := by
  rintro s t a v ⟨hwf, -⟩ hb h
  obtain ⟨hcfg, hmap, hram⟩ := exec_write_ram hb h
  rw [← hmap, ← hcfg]
  refine ⟨fun hr => ?_, fun hr => ?_, fun hr => ?_, fun hr => ?_⟩
  · have hv : Memory.read t.ram a = v := by rw [hram, Memory.read_write hwf, if_pos rfl]
    rw [exec_read_ram hr, execReadRam, hv]
    rfl
  · rw [exec_read_basic hr, execReadBasic, romIndex8K_toNat]
    rfl
  · rw [exec_read_kernal hr, execReadKernal, romIndex8K_toNat]
    rfl
  · rw [exec_read_char hr, execReadChar, romIndex4K_toNat]
    rfl

end Sys2Proof.Machine
end

section
/-! PROOFS. Commands as words (30_encoding.md R111 to R123): encoding and then decoding gives a well-formed
command back, decoding and then encoding gives the words back, and the operands are numbers of the words. -/

namespace Sys2Proof

/-! ## A well-formed command's words decode to it -/

theorem decode_one {w : Word} {i : Instr} (hx : hasExtension w = false) (hd : decodeWords w 0#32 0#32 = .ok i)
    (rest : List Word) : decode (w :: rest) = .ok (i, rest) :=
  decode_ok.2 ⟨_, fetch_one hx rest, hd, rfl⟩

theorem decode_three {w x0 x1 : Word} {i : Instr} (hx : hasExtension w = true) (hd : decodeWords w x0 x1 = .ok i)
    (rest : List Word) : decode (w :: x0 :: x1 :: rest) = .ok (i, rest) :=
  decode_ok.2 ⟨_, fetch_three hx x0 x1 rest, hd, rfl⟩

/-- Decoding inverts encoding at `i`, where `i` is well-formed. -/
def DecodesBack (i : Instr) : Prop :=
  i.wf = true → ∀ rest, decode (encode i ++ rest) = .ok (i, rest)

/-- The words of a well-formed command and any following words decode to it (R111 to R123). -/
theorem decode_encode {i : Instr} (hc : i.isCommand = true) : DecodesBack i := by
  apply isCommand_cases i hc <;> intros <;> intro hwf <;> intro rest
  case schedule d p t =>
    refine decode_three (by simp [hasExtension]) ?_ rest
    rw [decodeWords_schedule _ _ (opField_headerS ..), ifReservedClear_of_clear (headerS_reserved ..),
      wideField_low_high, phaseField_headerS, addrField_headerS]
  case cancel k =>
    refine decode_three (by simp [hasExtension]) ?_ rest
    rw [decodeWords_cancel _ _ (opField_headerN ..), ifReservedClear_of_clear (headerN_reserved ..),
      wideField_low_high]
  all_goals refine decode_one (by simp [hasExtension]) ?_ rest
  case read a =>
    rw [decodeWords_read _ _ (opField_headerB ..), ifReservedClear_of_clear (headerB_reserved_read ..),
      addrField_headerB]
  case write a v =>
    rw [decodeWords_write _ _ (opField_headerB ..), ifReservedClear_of_clear (headerB_reserved ..),
      addrField_headerB, dataField_headerB]
  case cycle => rw [decodeWords_cycle _ _ (opField_headerN ..), ifReservedClear_of_clear (headerN_reserved ..)]
  case advance n => rw [decodeWords_advance _ _ (opField_headerN ..), restField_headerN]
  case ret => rw [decodeWords_ret _ _ (opField_headerN ..), ifReservedClear_of_clear (headerN_reserved ..)]
  case assert l n b =>
    have hn : n ≠ 0#4 := by simpa [Instr.wf] using hwf
    rw [decodeWords_assert _ _ (opField_headerI ..), ifReservedClear_of_clear (headerI_reserved ..),
      srcField_headerI, if_neg hn, lineField_headerI, activeField_headerI]
  case sample l =>
    rw [decodeWords_sample _ _ (opField_headerI ..), ifReservedClear_of_clear (headerI_reserved_line ..),
      lineField_headerI]
  case ack =>
    rw [decodeWords_ack _ _ (opField_headerI ..), ifReservedClear_of_clear (headerI_reserved_line ..),
      if_pos (lineField_headerI ..)]
  case setbus b =>
    rw [decodeWords_setbus _ _ (opField_headerY ..), ifReservedClear_of_clear (headerY_reserved ..),
      byteField_headerY]
  case cart p e g =>
    rw [decodeWords_cart _ _ (opField_headerK ..), ifReservedClear_of_clear (headerK_reserved ..),
      presentField_headerK, exromField_headerK, gameField_headerK]
    exact if_pos hwf
  case op0 r => rw [decodeWords_reservedOp0 _ _ (opField_headerN ..), restField_headerN]
  case opD r => rw [decodeWords_reservedOpD _ _ (opField_headerN ..), restField_headerN]
  case opE r => rw [decodeWords_reservedOpE _ _ (opField_headerN ..), restField_headerN]
  case opF r => rw [decodeWords_reservedOpF _ _ (opField_headerN ..), restField_headerN]

/-- Settles O2: each field of a header is the operand that was put there, and its reserved bits are 0. -/
theorem encodedCommandsDecode : Obligations.EncodedCommandsDecode :=
  fun _ rest hwf hc => decode_encode hc hwf rest

/-! ## What the decoder gives, by OP -/

/-- A field inside a field that is 0 is 0. -/
theorem extract_zero_mono {w : Word} {lo len : Nat} (h : w.extractLsb' lo len = 0#len) (lo' len' : Nat)
    (hlo : lo ≤ lo') (hhi : lo' + len' ≤ lo + len) : w.extractLsb' lo' len' = 0#len' := by
  ext i hi
  rw [BitVec.getElem_extractLsb', getLsbD_of_extract_zero h (by omega) (by omega), BitVec.getElem_zero]

/-- The command a header and its extension words decode to: the OP, the reserved fields that are 0, and the
operands' fields (R113 to R123). -/
inductive Decoded (w x0 x1 : Word) : Instr → Prop
  | read (op : opField w = 0x1#4) (clear : w.extractLsb' 16 12 = 0#12) : Decoded w x0 x1 (.read (addrField w))
  | write (op : opField w = 0x2#4) (clear : w.extractLsb' 24 4 = 0#4) :
      Decoded w x0 x1 (.write (addrField w) (dataField w))
  | schedule (op : opField w = 0x3#4) (clear : w.extractLsb' 16 8 = 0#8) :
      Decoded w x0 x1 (.schedule (wideField x0 x1) (phaseField w) (addrField w))
  | cancel (op : opField w = 0x4#4) (clear : restField w = 0#28) : Decoded w x0 x1 (.cancel (wideField x0 x1))
  | cycle (op : opField w = 0x5#4) (clear : restField w = 0#28) : Decoded w x0 x1 .cycle
  | advance (op : opField w = 0x6#4) : Decoded w x0 x1 (.advance (restField w))
  | ret (op : opField w = 0x7#4) (clear : restField w = 0#28) : Decoded w x0 x1 .ret
  | assert (op : opField w = 0x8#4) (clear : w &&& 0x0FFFEEF0#32 = 0#32) :
      Decoded w x0 x1 (.assert (lineField w) (srcField w) (activeField w))
  | sample (op : opField w = 0x9#4) (high : w.extractLsb' 9 19 = 0#19) (low : w.extractLsb' 0 8 = 0#8) :
      Decoded w x0 x1 (.sample (lineField w))
  | ack (op : opField w = 0xA#4) (high : w.extractLsb' 9 19 = 0#19) (low : w.extractLsb' 0 8 = 0#8)
      (nmi : lineField w = .nmi) : Decoded w x0 x1 .ack
  | setbus (op : opField w = 0xB#4) (clear : w.extractLsb' 8 20 = 0#20) : Decoded w x0 x1 (.setbus (byteField w))
  | cart (op : opField w = 0xC#4) (clear : w.extractLsb' 3 25 = 0#25) :
      Decoded w x0 x1 (.cart (presentField w) (exromField w) (gameField w))
  | reservedOp0 (op : opField w = 0x0#4) : Decoded w x0 x1 (.reservedOp0 (restField w))
  | reservedOpD (op : opField w = 0xD#4) : Decoded w x0 x1 (.reservedOpD (restField w))
  | reservedOpE (op : opField w = 0xE#4) : Decoded w x0 x1 (.reservedOpE (restField w))
  | reservedOpF (op : opField w = 0xF#4) : Decoded w x0 x1 (.reservedOpF (restField w))

theorem decodeWords_decoded {w x0 x1 : Word} {i : Instr} (hd : decodeWords w x0 x1 = .ok i) :
    Decoded w x0 x1 i := by
  rcases opField_cases w with h | h | h | h | h | h | h | h | h | h | h | h | h | h | h | h
  · rw [decodeWords_reservedOp0 _ _ h] at hd; cases hd; exact .reservedOp0 h
  · rw [decodeWords_read _ _ h, ifReservedClear_ok, reserved_read_iff] at hd
    obtain ⟨hr, ⟨⟩⟩ := hd; exact .read h hr
  · rw [decodeWords_write _ _ h, ifReservedClear_ok, reserved_write_iff] at hd
    obtain ⟨hr, ⟨⟩⟩ := hd; exact .write h hr
  · rw [decodeWords_schedule _ _ h, ifReservedClear_ok, reserved_schedule_iff] at hd
    obtain ⟨hr, ⟨⟩⟩ := hd; exact .schedule h hr
  · rw [decodeWords_cancel _ _ h, ifReservedClear_ok, reserved_rest_iff] at hd
    obtain ⟨hr, ⟨⟩⟩ := hd; exact .cancel h hr
  · rw [decodeWords_cycle _ _ h, ifReservedClear_ok, reserved_rest_iff] at hd
    obtain ⟨hr, ⟨⟩⟩ := hd; exact .cycle h hr
  · rw [decodeWords_advance _ _ h] at hd; cases hd; exact .advance h
  · rw [decodeWords_ret _ _ h, ifReservedClear_ok, reserved_rest_iff] at hd
    obtain ⟨hr, ⟨⟩⟩ := hd; exact .ret h hr
  · rw [decodeWords_assert _ _ h, ifReservedClear_ok] at hd
    obtain ⟨hr, hd⟩ := hd
    split at hd <;> cases hd
    exact .assert h hr
  · rw [decodeWords_sample _ _ h, ifReservedClear_ok, reserved_line_iff] at hd
    obtain ⟨⟨hh, hl⟩, ⟨⟩⟩ := hd; exact .sample h hh hl
  · rw [decodeWords_ack _ _ h, ifReservedClear_ok, reserved_line_iff] at hd
    obtain ⟨⟨hh, hl⟩, hd⟩ := hd
    split at hd <;> cases hd
    exact .ack h hh hl ‹_›
  · rw [decodeWords_setbus _ _ h, ifReservedClear_ok, reserved_setbus_iff] at hd
    obtain ⟨hr, ⟨⟩⟩ := hd; exact .setbus h hr
  · rw [decodeWords_cart _ _ h, ifReservedClear_ok, reserved_cart_iff] at hd
    obtain ⟨hr, hd⟩ := hd
    split at hd <;> cases hd
    exact .cart h hr
  · rw [decodeWords_reservedOpD _ _ h] at hd; cases hd; exact .reservedOpD h
  · rw [decodeWords_reservedOpE _ _ h] at hd; cases hd; exact .reservedOpE h
  · rw [decodeWords_reservedOpF _ _ h] at hd; cases hd; exact .reservedOpF h

/-! ## Words that decode are the command's words -/

/-- The words a command with this header takes from the stream (R112). -/
def commandWords (w x0 x1 : Word) : List Word := if hasExtension w then [w, x0, x1] else [w]

theorem fetch_words {ws : List Word} {f : Fetched} (h : fetch ws = some f) :
    ws = commandWords f.w f.x0 f.x1 ++ f.rest := by
  unfold fetch at h
  unfold commandWords
  split at h
  · cases h
  · split at h
    · split at h <;> cases h
      rw [if_pos ‹_›]; rfl
    · cases h
      rw [if_neg ‹_›]; rfl

theorem commandWords_one {w : Word} (x0 x1 : Word) {op : BitVec 4} (ho : opField w = op) (h3 : op ≠ 0x3#4)
    (h4 : op ≠ 0x4#4) : commandWords w x0 x1 = [w] := by
  subst ho
  exact if_neg (by simp [hasExtension, h3, h4])

theorem commandWords_three {w : Word} (x0 x1 : Word) (h : opField w = 0x3#4 ∨ opField w = 0x4#4) :
    commandWords w x0 x1 = [w, x0, x1] :=
  if_pos ((hasExtension_iff w).2 h)

theorem headerN_of_op {w : Word} {op : BitVec 4} (ho : opField w = op) : headerN op (restField w) = w := by
  rw [← ho, headerN_fields]

theorem headerN_of_clear {w : Word} {op : BitVec 4} (ho : opField w = op) (h : restField w = 0#28) :
    headerN op 0#28 = w := by
  rw [← h, headerN_of_op ho]

theorem headerB_of_read {w : Word} (ho : opField w = 0x1#4) (h : w.extractLsb' 16 12 = 0#12) :
    headerB 0x1#4 0#8 (addrField w) = w := by
  have hd : dataField w = 0#8 := extract_zero_mono h 16 8 (by omega) (by omega)
  rw [← ho, ← hd, headerB_fields (extract_zero_mono h 24 4 (by omega) (by omega))]

/-- A header of `SAMPLE` or `ACK`: format I with only the line (R119). -/
theorem headerI_of_line {w : Word} {op : BitVec 4} (ho : opField w = op) (high : w.extractLsb' 9 19 = 0#19)
    (low : w.extractLsb' 0 8 = 0#8) : headerI op false (lineField w) 0#4 = w := by
  have hact : activeField w = false := getLsbD_of_extract_zero high (by omega) (by omega)
  have hsrc : srcField w = 0#4 := extract_zero_mono low 0 4 (by omega) (by omega)
  have hclear : w &&& 0x0FFFEEF0#32 = 0#32 := (reserved_assert_iff w).2
    ⟨⟨extract_zero_mono high 13 15 (by omega) (by omega), extract_zero_mono high 9 3 (by omega) (by omega)⟩,
      extract_zero_mono low 4 4 (by omega) (by omega)⟩
  rw [← ho, ← hact, ← hsrc, headerI_fields hclear]

theorem encode_decoded {w x0 x1 : Word} {i : Instr} (hd : Decoded w x0 x1 i) : encode i = commandWords w x0 x1 := by
  cases hd
  case read ho h => rw [commandWords_one _ _ ho (by decide) (by decide), encode_read, headerB_of_read ho h]
  case write ho h =>
    rw [commandWords_one _ _ ho (by decide) (by decide), encode_write, ← ho, headerB_fields h]
  case schedule ho h =>
    rw [commandWords_three _ _ (.inl ho), encode_schedule, headerS_fields ho h, lowWord_wideField,
      highWord_wideField]
  case cancel ho h =>
    rw [commandWords_three _ _ (.inr ho), encode_cancel, headerN_of_clear ho h, lowWord_wideField,
      highWord_wideField]
  case cycle ho h => rw [commandWords_one _ _ ho (by decide) (by decide), encode_cycle, headerN_of_clear ho h]
  case advance ho => rw [commandWords_one _ _ ho (by decide) (by decide), encode_advance, headerN_of_op ho]
  case ret ho h => rw [commandWords_one _ _ ho (by decide) (by decide), encode_ret, headerN_of_clear ho h]
  case assert ho h =>
    rw [commandWords_one _ _ ho (by decide) (by decide), encode_assert, ← ho, headerI_fields h]
  case sample ho hh hl =>
    rw [commandWords_one _ _ ho (by decide) (by decide), encode_sample, headerI_of_line ho hh hl]
  case ack ho hh hl hn =>
    rw [commandWords_one _ _ ho (by decide) (by decide), encode_ack, ← hn, headerI_of_line ho hh hl]
  case setbus ho h => rw [commandWords_one _ _ ho (by decide) (by decide), encode_setbus, headerY_fields ho h]
  case cart ho h => rw [commandWords_one _ _ ho (by decide) (by decide), encode_cart, headerK_fields ho h]
  case reservedOp0 ho =>
    rw [commandWords_one _ _ ho (by decide) (by decide), encode_reservedOp0, headerN_of_op ho]
  case reservedOpD ho =>
    rw [commandWords_one _ _ ho (by decide) (by decide), encode_reservedOpD, headerN_of_op ho]
  case reservedOpE ho =>
    rw [commandWords_one _ _ ho (by decide) (by decide), encode_reservedOpE, headerN_of_op ho]
  case reservedOpF ho =>
    rw [commandWords_one _ _ ho (by decide) (by decide), encode_reservedOpF, headerN_of_op ho]

/-- Settles O4: a header is its OP, its operands' fields and reserved fields that are 0. -/
theorem decodedWordsEncode : Obligations.DecodedWordsEncode := by
  intro ws i rest h
  obtain ⟨f, hf, hd, rfl⟩ := decode_ok.1 h
  obtain ⟨hwf, hc⟩ := decodeWords_wf hd
  exact ⟨hwf, hc, by rw [encode_decoded (decodeWords_decoded hd)]; exact fetch_words hf⟩

/-! ## The operands as numbers (R123) -/

theorem addrField_toNat (w : Word) : (addrField w).toNat = w.toNat % 2 ^ 16 := by
  simp [addrField, BitVec.extractLsb'_toNat]

theorem dataField_toNat (w : Word) : (dataField w).toNat = w.toNat / 2 ^ 16 % 2 ^ 8 := by
  simp [dataField, BitVec.extractLsb'_toNat, Nat.shiftRight_eq_div_pow]

theorem phaseField_toNat (w : Word) : (phaseField w).toNat = w.toNat / 2 ^ 24 % 2 ^ 4 := by
  simp [phaseField, BitVec.extractLsb'_toNat, Nat.shiftRight_eq_div_pow]

theorem restField_toNat (w : Word) : (restField w).toNat = w.toNat % 2 ^ 28 := by
  simp [restField, BitVec.extractLsb'_toNat]

theorem srcField_toNat (w : Word) : (srcField w).toNat = w.toNat % 2 ^ 4 := by
  simp [srcField, BitVec.extractLsb'_toNat]

theorem byteField_toNat (w : Word) : (byteField w).toNat = w.toNat % 2 ^ 8 := by
  simp [byteField, BitVec.extractLsb'_toNat]

theorem lineField_eq_nmi (w : Word) : lineField w = .nmi ↔ w.getLsbD 8 = true := by
  unfold lineField
  cases w.getLsbD 8 <;> simp

theorem wideField_toNat (x0 x1 : Word) : (wideField x0 x1).toNat = x1.toNat * 2 ^ 32 + x0.toNat := by
  have h0 := x0.isLt
  have h1 := x1.isLt
  have hlt : x1.toNat * 2 ^ 32 < 2 ^ 64 := by omega
  rw [wideField, BitVec.toNat_or, BitVec.toNat_shiftLeft, BitVec.toNat_setWidth, BitVec.toNat_setWidth,
    Nat.shiftLeft_eq, Nat.mod_eq_of_lt (by omega : x1.toNat < 2 ^ 64), Nat.mod_eq_of_lt hlt,
    Nat.mod_eq_of_lt (by omega : x0.toNat < 2 ^ 64), Nat.mul_comm, Nat.two_pow_add_eq_or_of_lt h0]

/-- The 64-bit operand as a signed number: its sign is bit 31 of its high word (R112). -/
theorem wideField_toInt (x0 x1 : Word) :
    (wideField x0 x1).toInt = (x1.toNat * 2 ^ 32 + x0.toNat : Int) - (if x1.getLsbD 31 then 2 ^ 64 else 0) := by
  have hmsb : (wideField x0 x1).msb = x1.getLsbD 31 := by
    rw [BitVec.msb_eq_getLsbD_last]
    conv_rhs => rw [← highWord_wideField x0 x1, highWord, BitVec.getLsbD_extractLsb']
    rfl
  rw [BitVec.toInt_eq_msb_cond, hmsb, wideField_toNat]
  split <;> simp

/-- Settles O5: every operand is a field of the header or the two extension words. -/
theorem operandsAssembled : Obligations.OperandsAssembled := by
  intro w x0 x1 i hd
  cases decodeWords_decoded hd
  case read => exact addrField_toNat w
  case write => exact ⟨addrField_toNat w, dataField_toNat w⟩
  case schedule => exact ⟨wideField_toInt x0 x1, phaseField_toNat w, addrField_toNat w⟩
  case cancel => exact wideField_toNat x0 x1
  case advance => exact restField_toNat w
  case assert => exact ⟨rfl, lineField_eq_nmi w, srcField_toNat w⟩
  case sample => exact lineField_eq_nmi w
  case setbus => exact byteField_toNat w
  case cart => exact ⟨rfl, rfl, rfl⟩
  all_goals trivial

end Sys2Proof
end

section
/-! PROOFS. R122's illegal headers are the ones that decode to no command (30_encoding.md R122), and what a
step does with the words it takes (R110, R126). -/

namespace Sys2Proof.Machine

/-! ## The illegal headers as fields, by OP -/

/-- The bits `hi` to `lo` are 0 exactly when the field of them is. -/
theorem not_anyBit_iff (w : Word) (hi lo len : Nat) (h : hi - lo + 1 = len) :
    ¬ anyBit w hi lo ↔ w.extractLsb' lo len = 0#len := by
  subst h
  rw [anyBit, not_not, ← BitVec.toNat_inj, BitVec.extractLsb'_toNat, Nat.shiftRight_eq_div_pow]
  simp

theorem opField_toNat (w : Word) : (opField w).toNat = w.toNat / 2 ^ 28 := by
  have := w.isLt
  simp [opField, BitVec.extractLsb'_toNat, Nat.shiftRight_eq_div_pow]
  omega

theorem div_of_opField {w : Word} {op : BitVec 4} (h : opField w = op) : w.toNat / 2 ^ 28 = op.toNat := by
  rw [← opField_toNat, h]

theorem srcField_eq_zero (w : Word) : srcField w = 0#4 ↔ w.toNat % 16 = 0 := by
  rw [← BitVec.toNat_inj, srcField_toNat]; rfl

/-- Bit 8 is 0 exactly for `IRQ` (R119). -/
theorem anyBit_line (w : Word) : anyBit w 8 8 ↔ lineField w = .nmi := by
  rw [lineField_eq_nmi, anyBit, BitVec.getLsbD, Nat.testBit_eq_decide_div_mod_eq]
  simp

/-- `CART` without a cartridge wants both its lines at 1 (R121, R122). -/
theorem cartLines_iff (w : Word) :
    (presentField w || (exromField w && gameField w)) = true ↔ ¬ (¬ anyBit w 2 2 ∧ w.toNat % 4 ≠ 3) := by
  simp only [presentField, exromField, gameField, anyBit, BitVec.getLsbD, Nat.testBit_eq_decide_div_mod_eq]
  simp
  omega

/-- Words whose reserved bits count decode when those are 0 and the operands are admitted. -/
theorem reserved_decodes_iff {w m : Word} {r : Except DecodeError Instr} :
    (∃ i, ifReservedClear w m r = .ok i ∧ isReservedOp i = false) ↔
      w &&& m = 0#32 ∧ ∃ i, r = .ok i ∧ isReservedOp i = false := by
  simp [ifReservedClear_ok, and_assoc]

theorem ok_decodes_iff {i : Instr} :
    (∃ j, (.ok i : Except DecodeError Instr) = .ok j ∧ isReservedOp j = false) ↔ isReservedOp i = false := by
  simp

theorem ite_decodes_iff {p : Prop} [Decidable p] {i : Instr} {e : DecodeError} :
    (∃ j, (if p then Except.ok i else Except.error e) = .ok j ∧ isReservedOp j = false) ↔
      p ∧ isReservedOp i = false := by
  split <;> simp [*]

/-- A header is legal exactly when it decodes to a command that is no reserved OP (R122). -/
theorem decodes_iff_legal (w x0 x1 : Word) :
    (∃ i, decodeWords w x0 x1 = .ok i ∧ isReservedOp i = false) ↔ ¬ illegalHeader w := by
  rcases opField_cases w with h | h | h | h | h | h | h | h | h | h | h | h | h | h | h | h <;>
    simp only [illegalHeader, div_of_opField h]
  · rw [decodeWords_reservedOp0 _ _ h, ok_decodes_iff]; simp [isReservedOp]
  · rw [decodeWords_read _ _ h, reserved_decodes_iff, ok_decodes_iff, reserved_read_iff]
    simp [isReservedOp, not_anyBit_iff w 27 16 12 rfl]
  · rw [decodeWords_write _ _ h, reserved_decodes_iff, ok_decodes_iff, reserved_write_iff]
    simp [isReservedOp, not_anyBit_iff w 27 24 4 rfl]
  · rw [decodeWords_schedule _ _ h, reserved_decodes_iff, ok_decodes_iff, reserved_schedule_iff]
    simp [isReservedOp, not_anyBit_iff w 23 16 8 rfl]
  · rw [decodeWords_cancel _ _ h, reserved_decodes_iff, ok_decodes_iff, reserved_rest_iff]
    simp [isReservedOp, not_anyBit_iff w 27 0 28 rfl]
  · rw [decodeWords_cycle _ _ h, reserved_decodes_iff, ok_decodes_iff, reserved_rest_iff]
    simp [isReservedOp, not_anyBit_iff w 27 0 28 rfl]
  · rw [decodeWords_advance _ _ h, ok_decodes_iff]; simp [isReservedOp]
  · rw [decodeWords_ret _ _ h, reserved_decodes_iff, ok_decodes_iff, reserved_rest_iff]
    simp [isReservedOp, not_anyBit_iff w 27 0 28 rfl]
  · rw [decodeWords_assert _ _ h, reserved_decodes_iff, ← ite_not, ite_decodes_iff, reserved_assert_iff]
    simp [isReservedOp, srcField_eq_zero, not_anyBit_iff w 27 13 15 rfl, not_anyBit_iff w 11 9 3 rfl,
      not_anyBit_iff w 7 4 4 rfl, and_assoc]
  · rw [decodeWords_sample _ _ h, reserved_decodes_iff, ok_decodes_iff, reserved_line_iff]
    simp [isReservedOp, not_anyBit_iff w 27 9 19 rfl, not_anyBit_iff w 7 0 8 rfl]
  · rw [decodeWords_ack _ _ h, reserved_decodes_iff, ite_decodes_iff, reserved_line_iff]
    simp [isReservedOp, anyBit_line, not_anyBit_iff w 27 9 19 rfl, not_anyBit_iff w 7 0 8 rfl, and_assoc]
  · rw [decodeWords_setbus _ _ h, reserved_decodes_iff, ok_decodes_iff, reserved_setbus_iff]
    simp [isReservedOp, not_anyBit_iff w 27 8 20 rfl]
  · rw [decodeWords_cart _ _ h, reserved_decodes_iff, ite_decodes_iff, reserved_cart_iff, cartLines_iff]
    simp [isReservedOp, not_anyBit_iff w 27 3 25 rfl]
  · rw [decodeWords_reservedOpD _ _ h, ok_decodes_iff]; simp [isReservedOp]
  · rw [decodeWords_reservedOpE _ _ h, ok_decodes_iff]; simp [isReservedOp]
  · rw [decodeWords_reservedOpF _ _ h, ok_decodes_iff]; simp [isReservedOp]

/-- Settles O7: what the decoder gives for a legal header is a well-formed command. -/
theorem legalWordsAreCommands : Obligations.LegalWordsAreCommands := by
  intro w x0 x1 h
  obtain ⟨i, hd, hr⟩ := (decodes_iff_legal w x0 x1).2 h
  obtain ⟨hwf, hc⟩ := decodeWords_wf hd
  exact ⟨i, hd, hwf, hc, hr⟩

/-! ## A step that finds an illegal header (R122) -/

/-- The four reserved OPs raise `ILLEGAL_COMMAND` (R122). -/
theorem exec_reservedOp {i : Instr} (h : isReservedOp i = true) (s : State) : exec i s = .next (illegalCommand s) := by
  cases i
  case reservedOp0 | reservedOpD | reservedOpE | reservedOpF => rfl
  all_goals cases h

/-- No other row is a reserved OP, which is its own row. -/
theorem target_reservedOp {i : Instr} (h : isReservedOp i = true) (c : MapConfig) : target c i = i := by
  cases i
  case reservedOp0 | reservedOpD | reservedOpE | reservedOpF => rfl
  all_goals cases h

theorem step_of_decoded {s : State} {f : Fetched} {i : Instr} (ha : s.accepts = true) (hf : fetch s.commands = some f)
    (hd : decodeWords f.w f.x0 f.x1 = .ok i) :
    step s = exec (target s.mapConfig i) { s with commands := f.rest } := by
  simp only [step_of_accepts ha, State.incoming, hf, hd]

theorem step_of_undecoded {s : State} {f : Fetched} {e : DecodeError} (ha : s.accepts = true)
    (hf : fetch s.commands = some f) (hd : decodeWords f.w f.x0 f.x1 = .error e) :
    step s = .next (illegalCommand { s with commands := f.rest }) := by
  simp only [step_of_accepts ha, State.incoming, hf, hd]

/-- Settles O6: an illegal header decodes to no command or to a reserved OP. -/
theorem illegalCommandStops : Obligations.IllegalCommandStops := by
  refine ⟨fun s f ha hf hi => ?_, fun s i hi => exec_reservedOp hi s⟩
  cases hd : decodeWords f.w f.x0 f.x1 with
  | error e => exact step_of_undecoded ha hf hd
  | ok i =>
    have hr : isReservedOp i = true := by
      by_contra hr
      exact (decodes_iff_legal f.w f.x0 f.x1).1 ⟨i, hd, by simpa using hr⟩ hi
    rw [step_of_decoded ha hf hd, target_reservedOp hr, exec_reservedOp hr]
    rfl

/-! ## A step that finds a command (R110, R126) -/

/-- Settles O8: the command port gives the decoded command's row, with its words taken. -/
theorem stepRunsDecodedInstruction : Obligations.StepRunsDecodedInstruction := by
  intro s i rest ha h
  obtain ⟨f, hf, hd, rfl⟩ := decode_ok.1 h
  exact step_of_decoded ha hf hd

/-- Settles O1: each list of words is computed. -/
theorem specWordsDecode : Obligations.SpecWordsDecode :=
  ⟨rfl, rfl, rfl, rfl, rfl, rfl, rfl, rfl, rfl, rfl, rfl, rfl, rfl⟩

end Sys2Proof.Machine
end

section
/-! PROOFS. The second stage of decoding (30_encoding.md R126): the row a `READ` or `WRITE` reaches is the one
whose condition holds, and it does what the command does (41_address_space.md R180, R181). -/

namespace Sys2Proof.Machine

/-! ## The kinds of timer chip register (42_timer.md R230) -/

/-- The eight kinds of register that a timer chip's offsets fall into. -/
inductive RegKind
  | port | dir | low | high | tod | serial | icr | control

/-- The kind of the register at an offset. -/
def regKind (o : Nat) : RegKind :=
  if o ≤ 0x1 then .port
  else if o ≤ 0x3 then .dir
  else if o = 0x4 ∨ o = 0x6 then .low
  else if o ≤ 0x7 then .high
  else if o ≤ 0xB then .tod
  else if o = 0xC then .serial
  else if o = 0xD then .icr
  else .control

/-- The offsets of a kind. -/
def RegKind.At (o : Nat) : RegKind → Prop
  | .port => o < 2
  | .dir => o = 2 ∨ o = 3
  | .low => o = 4 ∨ o = 6
  | .high => o = 5 ∨ o = 7
  | .tod => 8 ≤ o ∧ o < 12
  | .serial => o = 12
  | .icr => o = 13
  | .control => o = 14 ∨ o = 15

/-- The row that reads a register of a kind. -/
def RegKind.readRow (c : Chip) (a : Addr) : RegKind → Instr
  | .port => .readCiaPr c a
  | .dir => .readCiaDdr c a
  | .low => .readCiaTlo c a
  | .high => .readCiaThi c a
  | .tod => .readCiaTod c a
  | .serial => .readCiaSdr c a
  | .icr => .readCiaIcr c a
  | .control => .readCiaCr c a

/-- The row that writes a register of a kind. -/
def RegKind.writeRow (c : Chip) (a : Addr) (v : Byte) : RegKind → Instr
  | .port => .writeCiaPr c a v
  | .dir => .writeCiaDdr c a v
  | .low => .writeCiaTlo c a v
  | .high => .writeCiaThi c a v
  | .tod => .writeCiaTod c a v
  | .serial => .writeCiaSdr c a v
  | .icr => .writeCiaIcr c a v
  | .control => .writeCiaCr c a v

/-- Each offset has one kind. -/
theorem regKind_of_at {k : RegKind} {o : Nat} (h : k.At o) : regKind o = k := by
  unfold regKind
  cases k <;> simp only [RegKind.At] at h
  case port => rw [if_pos (by omega)]
  case dir => rw [if_neg (by omega), if_pos (by omega)]
  case low => rw [if_neg (by omega), if_neg (by omega), if_pos (by omega)]
  case high => rw [if_neg (by omega), if_neg (by omega), if_neg (by omega), if_pos (by omega)]
  case tod => rw [if_neg (by omega), if_neg (by omega), if_neg (by omega), if_neg (by omega), if_pos (by omega)]
  case serial => rw [if_neg (by omega), if_neg (by omega), if_neg (by omega), if_neg (by omega), if_neg (by omega), if_pos (by omega)]
  case icr => rw [if_neg (by omega), if_neg (by omega), if_neg (by omega), if_neg (by omega), if_neg (by omega), if_neg (by omega), if_pos (by omega)]
  case control => rw [if_neg (by omega), if_neg (by omega), if_neg (by omega), if_neg (by omega), if_neg (by omega), if_neg (by omega), if_neg (by omega)]

theorem at_regKind {o : Nat} (h : o < 16) : (regKind o).At o := by
  unfold regKind
  split_ifs <;> simp only [RegKind.At] <;> omega

theorem ciaReadRow_eq (c : Chip) (a : Addr) : ciaReadRow c a = (regKind (a.toNat % 16)).readRow c a := by
  rw [ciaReadRow, chipReg_toNat, regKind]
  split_ifs <;> rfl

theorem ciaWriteRow_eq (c : Chip) (a : Addr) (v : Byte) :
    ciaWriteRow c a v = (regKind (a.toNat % 16)).writeRow c a v := by
  rw [ciaWriteRow, chipReg_toNat, regKind]
  split_ifs <;> rfl

/-! ## The row does what the command does (R180, R181) -/

theorem exec_ciaReadRow (c : Chip) (a : Addr) (s : State) : exec (ciaReadRow c a) s = ciaRead c a s := by
  unfold ciaReadRow ciaRead
  dsimp only
  split_ifs <;> rfl

theorem exec_ciaWriteRow (c : Chip) (a : Addr) (v : Byte) (s : State) :
    exec (ciaWriteRow c a v) s = ciaWrite c a v s := by
  unfold ciaWriteRow ciaWrite
  dsimp only
  split_ifs <;> rfl

theorem exec_extReadRow (x : ExtBank) (a : Addr) (s : State) : exec (extReadRow x a) s = extBankRead x a s := by
  cases x
  case romh =>
    unfold extReadRow extBankRead
    dsimp only
    split <;> rfl
  all_goals rfl

theorem exec_extWriteRow (x : ExtBank) (a : Addr) (v : Byte) (s : State) :
    exec (extWriteRow x a v) s = extBankWrite x a v s := by
  cases x <;> rfl

/-- The row a bound `READ` reaches is the access that `READ` makes (R180). -/
theorem exec_readRow {s : State} {a : Addr} {b : Bank} (hb : readBank s.mapConfig a = some b) :
    exec (readRow b a) s = exec (.read a) s := by
  rw [exec_read, execRead, hb]
  cases b
  case port =>
    unfold readRow
    dsimp only
    split <;> rfl
  case cia1 => exact exec_ciaReadRow .cia1 a s
  case cia2 => exact exec_ciaReadRow .cia2 a s
  case ext x => exact exec_extReadRow x a s
  all_goals rfl

/-- The row a bound `WRITE` reaches is the access that `WRITE` makes (R181). -/
theorem exec_writeRow {s : State} {a : Addr} {b : Bank} (v : Byte) (hb : writeBank s.mapConfig a = some b) :
    exec (writeRow b a v) s = exec (.write a v) s := by
  rw [exec_write, execWrite, hb]
  cases b
  case port =>
    unfold writeRow
    dsimp only
    split <;> rfl
  case cia1 => exact exec_ciaWriteRow .cia1 a v s
  case cia2 => exact exec_ciaWriteRow .cia2 a v s
  case ext x => exact exec_extWriteRow x a v s
  all_goals rfl

theorem target_read {c : MapConfig} {a : Addr} {b : Bank} (h : readBank c a = some b) :
    target c (.read a) = readRow b a := by
  simp only [target, h]

theorem target_write {c : MapConfig} {a : Addr} {b : Bank} (v : Byte) (h : writeBank c a = some b) :
    target c (.write a v) = writeRow b a v := by
  simp only [target, h]

/-- Settles O9: the rows and the commands' own routing choose the same access, Bank by Bank. -/
theorem targetRowIsTheAccess : Obligations.TargetRowIsTheAccess := by
  intro i s
  cases i
  case read a =>
    cases hb : readBank s.mapConfig a with
    | none => simp only [target, hb]
    | some b => rw [target_read hb, exec_readRow hb]
  case write a v =>
    cases hb : writeBank s.mapConfig a with
    | none => simp only [target, hb]
    | some b => rw [target_write v hb, exec_writeRow v hb]
  all_goals rfl

/-! ## A row's command reaches it under the row's condition (R126) -/

theorem target_ciaRead {c : MapConfig} {k : Chip} {a : Addr} {r : RegKind}
    (hb : (readBank c a == some (chipBank k)) = true) (hr : r.At (a.toNat % 16)) :
    target c (.read a) = r.readRow k a := by
  rw [target_read (eq_of_beq hb), ← regKind_of_at hr]
  cases k <;> exact ciaReadRow_eq _ a

theorem target_ciaWrite {c : MapConfig} {k : Chip} {a : Addr} {r : RegKind} (v : Byte)
    (hb : (writeBank c a == some (chipBank k)) = true) (hr : r.At (a.toNat % 16)) :
    target c (.write a v) = r.writeRow k a v := by
  rw [target_write v (eq_of_beq hb), ← regKind_of_at hr]
  cases k <;> exact ciaWriteRow_eq _ a v

/-- `ROMH` has a row for each of its two windows (20_memory.md R80). -/
theorem target_romh {c : MapConfig} {a : Addr} (hb : (readBank c a == some (.ext .romh)) = true) :
    target c (.read a) = if a.toNat < 0xC000 then .readRomhA a else .readRomhE a :=
  target_read (eq_of_beq hb)

theorem target_writeRom {c : MapConfig} {a : Addr} {v : Byte} (hs : rowSelected c (.writeRom a v) = true) :
    target c (.write a v) = .writeRom a v := by
  simp only [rowSelected, Bool.or_eq_true, beq_iff_eq] at hs
  obtain (hb | hb) | hb := hs <;> exact target_write v hb

/-- In a configuration that satisfies a row's condition, its command reaches it. -/
theorem target_command {c : MapConfig} {i : Instr} (hwf : i.wf = true) (hs : rowSelected c i = true) :
    target c i.command = i := by
  cases i
  case read | write => cases hs
  case readRam | readBasic | readKernal | readChar | readColor | readOpen | readVic | readSid | readRoml | readIo1 |
      readIo2 => exact target_read (eq_of_beq hs)
  case readRomhA a =>
    have ha := window_of_addrIn hwf
    exact (target_romh hs).trans (if_pos (by simp at ha; omega))
  case readRomhE a =>
    have ha := window_of_addrIn hwf
    exact (target_romh hs).trans (if_neg (by simp at ha; omega))
  case readCiaPr k a => exact target_ciaRead (r := .port) hs (ciaPr_offset hwf)
  case readCiaDdr k a => exact target_ciaRead (r := .dir) hs (ciaDdr_offset hwf)
  case readCiaTlo k a => exact target_ciaRead (r := .low) hs (ciaTlo_offset hwf)
  case readCiaThi k a => exact target_ciaRead (r := .high) hs (ciaThi_offset hwf)
  case readCiaTod k a => exact target_ciaRead (r := .tod) hs (ciaTod_offset hwf)
  case readCiaSdr k a => exact target_ciaRead (r := .serial) hs (ciaSdr_offset hwf)
  case readCiaIcr k a => exact target_ciaRead (r := .icr) hs (ciaIcr_offset hwf)
  case readCiaCr k a => exact target_ciaRead (r := .control) hs (ciaCr_offset hwf)
  case writeRom => exact target_writeRom hs
  case writeRam a v | writeColor a v | writeOpen a v | writeVic a v | writeSid a v | writeRoml a v | writeRomhE a v |
      writeIo1 a v | writeIo2 a v => exact target_write v (eq_of_beq hs)
  case writeCiaPr k a v => exact target_ciaWrite (r := .port) v hs (ciaPr_offset hwf)
  case writeCiaDdr k a v => exact target_ciaWrite (r := .dir) v hs (ciaDdr_offset hwf)
  case writeCiaTlo k a v => exact target_ciaWrite (r := .low) v hs (ciaTlo_offset hwf)
  case writeCiaThi k a v => exact target_ciaWrite (r := .high) v hs (ciaThi_offset hwf)
  case writeCiaTod k a v => exact target_ciaWrite (r := .tod) v hs (ciaTod_offset hwf)
  case writeCiaSdr k a v => exact target_ciaWrite (r := .serial) v hs (ciaSdr_offset hwf)
  case writeCiaIcr k a v => exact target_ciaWrite (r := .icr) v hs (ciaIcr_offset hwf)
  case writeCiaCr k a v => exact target_ciaWrite (r := .control) v hs (ciaCr_offset hwf)
  case readPortDdr | readPortData => exact target_read (b := .port) rfl
  case writePortDdr v | writePortData v => exact target_write (b := .port) v rfl
  all_goals rfl

/-- A well-formed row's command is well-formed: a `READ` or `WRITE` always is (R122). -/
theorem command_wf {i : Instr} (h : i.wf = true) : i.command.wf = true := by
  cases i
  case assert | cart => exact h
  all_goals rfl

/-- Settles O3: a row's words are its command's, which reaches it. -/
theorem encodedRowsReachTheirRow : Obligations.EncodedRowsReachTheirRow := by
  intro c i rest hwf hs
  rw [encode_eq_command]
  exact ⟨decode_encode (command_isCommand i) (command_wf hwf) rest, target_command hwf hs⟩

end Sys2Proof.Machine
end

section
/-! PROOFS. A command that does not stop gives one response after its events (30_encoding.md R124, R125), and
which accesses complete (41_address_space.md R180, R181; 42_timer.md R240, R262). -/

namespace Sys2Proof.Machine

/-! ## Updates that emit events only -/

/-- From `s` to `t` the events `es` are emitted and no response, and stops, the sweep state and the cycle stay. -/
structure Emits (es : List Output) (s t : State) : Prop where
  output : t.output = s.output ++ es
  events : ∀ e ∈ es, e.isResponse = false
  fault : t.fault = s.fault
  refusal : t.refusal = s.refusal
  sweep : t.sweep = s.sweep
  cycle : t.cycle = s.cycle

/-- An update of none of these fields. -/
theorem Emits.of_fields {s t : State} (output : t.output = s.output := by rfl) (fault : t.fault = s.fault := by rfl)
    (refusal : t.refusal = s.refusal := by rfl) (sweep : t.sweep = s.sweep := by rfl)
    (cycle : t.cycle = s.cycle := by rfl) : Emits [] s t :=
  ⟨by rw [output, List.append_nil], nofun, fault, refusal, sweep, cycle⟩

theorem Emits.trans {es fs : List Output} {s t r : State} (h : Emits es s t) (h' : Emits fs t r) :
    Emits (es ++ fs) s r where
  output := by rw [h'.output, h.output, List.append_assoc]
  events e he := (List.mem_append.1 he).elim (h.events e) (h'.events e)
  fault := h'.fault.trans h.fault
  refusal := h'.refusal.trans h.refusal
  sweep := h'.sweep.trans h.sweep
  cycle := h'.cycle.trans h.cycle

theorem Emits.event {s : State} {o : Output} (ho : o.isResponse = false) : Emits [o] s (s.emit o) :=
  ⟨rfl, fun _ he => List.mem_singleton.1 he ▸ ho, rfl, rfl, rfl, rfl⟩

theorem Emits.afterDraw (s : State) : Emits [] s s.afterDraw := .of_fields

theorem Emits.setCia (s : State) (c : Chip) (x : Cia) : Emits [] s (s.setCia c x) := by
  cases c <;> exact .of_fields

theorem Emits.assertLine (s : State) (l : Line) (i : BitVec 4) (b : Bool) : Emits [] s (s.assertLine l i b) := by
  cases l <;> exact .of_fields

theorem Emits.raiseInterrupt (s : State) (c : Chip) (b : Bool) : Emits [] s (s.raiseInterrupt c b) := by
  cases c <;> exact .of_fields

/-- The side effect of a port write emits `SIDE` when the signal changes (42_timer.md R268). -/
theorem emits_updateSide (s : State) : ∃ es, Emits es s (updateSide s) := by
  unfold updateSide
  dsimp only
  split
  · exact ⟨[], .of_fields⟩
  · exact ⟨[.side (sideLevel s.cia1)], .trans (t := { s with side := sideLevel s.cia1 }) .of_fields (.event rfl)⟩

theorem emits_portWrite (c : Chip) (p : TimerId) (s : State) (x : Cia) :
    ∃ es, Emits es s (afterPortWrite c p (s.setCia c x)) := by
  have hset := Emits.setCia s c x
  cases c
  case cia2 => cases p <;> exact ⟨[], hset⟩
  case cia1 =>
    cases p
    case a => exact ⟨[], hset⟩
    case b =>
      obtain ⟨es, he⟩ := emits_updateSide (s.setCia .cia1 x)
      exact ⟨es, hset.trans he⟩

theorem Emits.clearIcr (c : Chip) (s : State) : Emits [] s (clearIcr c s) := by
  unfold Machine.clearIcr
  dsimp only
  split
  · exact (Emits.setCia s c _).trans (.raiseInterrupt _ c false)
  · exact .setCia s c _

theorem Emits.writeMask (c : Chip) (v : Byte) (s : State) : Emits [] s (writeMask c v s) := by
  unfold Machine.writeMask
  dsimp only
  split
  · exact (Emits.setCia s c _).trans (.raiseInterrupt _ c true)
  · exact .setCia s c _

theorem Emits.enqueue {s t : State} {d p : Nat} {o : Owner} {h : Handle} (he : s.enqueue d p o = .ok (h, t)) :
    Emits [] s t := by
  obtain ⟨_, rfl⟩ := enqueue_ok he
  exact .of_fields

/-! ## Reconciling and a control register write -/

/-- `Reconcile` that does not stop emits nothing; its stop is a fault (42_timer.md R243). -/
theorem reconcile_outcome (c : Chip) (u : TimerId) (s : State) :
    (∃ t, reconcile c u s = .ok t ∧ Emits [] s t) ∨ ∃ f, reconcile c u s = .error (s.raiseFault f) := by
  rcases reconcile_cases c u s with ⟨h, -⟩ | ⟨k, -, -, h⟩ | ⟨-, -, ⟨-, h⟩ | ⟨-, h⟩ | ⟨-, -, h⟩⟩
  · exact .inl ⟨_, h, .of_fields⟩
  · exact .inl ⟨_, h, .trans (t := s.dequeue k) .of_fields (.setCia _ c _)⟩
  · exact .inr ⟨_, h⟩
  · exact .inr ⟨_, h⟩
  · exact .inl ⟨_, h, Emits.trans (t := { s with queue := _, nextSeq := _ }) .of_fields (.setCia _ c _)⟩

/-- `Reconcile` stops only where it would queue a tick past the last cycle or handle. -/
theorem reconcile_ok {c : Chip} {u : TimerId} {s : State}
    (h : clocked (s.cia c) u = true → ((s.cia c).timer u).tick = none →
      s.cycle.toNat + timerRate s.cfg c ≤ maxU64 ∧ s.nextSeq.toNat < maxU64) : ∃ t, reconcile c u s = .ok t := by
  rcases reconcile_cases c u s with ⟨hr, -⟩ | ⟨_, -, -, hr⟩ | ⟨hc, ht, ⟨hcyc, -⟩ | ⟨hseq, -⟩ | ⟨-, -, hr⟩⟩
  · exact ⟨_, hr⟩
  · exact ⟨_, hr⟩
  · have := (h hc ht).1; omega
  · have := (h hc ht).2; omega
  · exact ⟨_, hr⟩

theorem Emits.writeControl {c : Chip} {u : TimerId} {v : Byte} {s t : State} (h : writeControl c u v s = .ok t) :
    Emits [] s t := by
  obtain ⟨x, hx, -⟩ := writeControl_split c u v s
  rw [hx] at h
  obtain ⟨r, hr, he⟩ | ⟨_, hr⟩ := reconcile_outcome c u (s.setCia c x) <;> rw [hr] at h <;> cases h
  exact (Emits.setCia s c x).trans he

theorem writeControl_error_stopped {c : Chip} {u : TimerId} {v : Byte} {s t : State}
    (h : writeControl c u v s = .error t) : t.stopped = true := by
  obtain ⟨x, hx, -⟩ := writeControl_split c u v s
  rw [hx] at h
  obtain ⟨r, hr, -⟩ | ⟨f, hr⟩ := reconcile_outcome c u (s.setCia c x) <;> rw [hr] at h <;> cases h
  rfl

/-- A control register write stops only where the value runs the unit and its tick would overflow (R240). -/
theorem writeControl_ok {c : Chip} {u : TimerId} {v : Byte} {s : State}
    (h : v.getLsbD 0 = true → (u = .b → v.toNat / 32 % 4 = 0) → ((s.cia c).timer u).tick = none →
      s.cycle.toNat + timerRate s.cfg c ≤ maxU64 ∧ s.nextSeq.toNat < maxU64) : ∃ t, writeControl c u v s = .ok t := by
  obtain ⟨x, hx, -, -, -, -, -, -, -, hcontrol, -, htick⟩ := writeControl_split c u v s
  have hclocked : clocked x u = clocked (x.setControl u (crStored v)) u := clocked_congr (by simp [hcontrol])
  rw [hx]
  refine reconcile_ok fun hc ht => ?_
  rw [State.cia_setCia, hclocked, clocked_setControl_stored] at hc
  rw [State.cia_setCia, htick] at ht
  simpa using h hc.1 hc.2 ht

/-! ## One response, after the events (R124, R125) -/

/-- `t` is `s` after a command that gave the response `o`: its events were emitted first. -/
def Completes (s : State) (o : Output) (t : State) : Prop := ∃ r es, Emits es s r ∧ t = r.emit o

theorem Emits.completes {es : List Output} {s r : State} (h : Emits es s r) (o : Output) : Completes s o (r.emit o) :=
  ⟨r, es, h, rfl⟩

theorem completes_emit (s : State) (o : Output) : Completes s o (s.emit o) := (Emits.of_fields (t := s)).completes o

/-- What an instruction other than `ADVANCE` and `RETURN` answers, where it does not stop. -/
theorem Effect.completes {i : Instr} {s t : State} (he : Effect i s t) (hadvance : ∀ n, i ≠ .advance n)
    (hret : i ≠ .ret) (ht : t.stopped = false) : ∃ o, o.isResponse = true ∧ Completes s o t := by
  cases he
  case respond o ho => exact ⟨o, ho, completes_emit s o⟩
  case draw v => exact ⟨_, rfl, (Emits.afterDraw s).completes _⟩
  case extRead x a => exact ⟨_, rfl, ((Emits.event rfl).trans (.afterDraw _)).completes _⟩
  case extWrite x a v => exact ⟨_, rfl, (Emits.event rfl).completes _⟩
  case fault c => cases ht
  case refuse c => simp at ht
  case portDdr v _ => exact ⟨_, rfl, Emits.completes (r := { s with portDdr := v }) .of_fields _⟩
  case portData v _ => exact ⟨_, rfl, Emits.completes (r := { s with portData := v }) .of_fields _⟩
  case ram a v _ => exact ⟨_, rfl, Emits.completes (r := { s with ram := _ }) .of_fields _⟩
  case color a v _ => exact ⟨_, rfl, Emits.completes (r := { s with color := _ }) .of_fields _⟩
  case busByte b _ => exact ⟨_, rfl, Emits.completes (r := { s with busByte := b }) .of_fields _⟩
  case cart p e g _ => exact ⟨_, rfl, Emits.completes (r := { s with cart := ⟨p, e, g⟩ }) .of_fields _⟩
  case schedule hq => exact ⟨_, rfl, (Emits.enqueue hq).completes _⟩
  case scheduleStop hq => obtain ⟨f, rfl⟩ := enqueue_error hq; cases ht
  case cancel h e tag _ _ _ => exact ⟨_, rfl, Emits.completes (r := s.dequeue h) .of_fields _⟩
  case advanceZero hi _ => exact absurd hi (hadvance _)
  case advance hi _ _ _ => exact absurd hi (hadvance _)
  case ret hi _ => exact absurd hi hret
  case assert l src b _ => exact ⟨_, rfl, (Emits.assertLine s l src b).completes _⟩
  case ack _ => exact ⟨_, rfl, Emits.completes (r := { s with nmiPending := false }) .of_fields _⟩
  case ciaPort c p v => obtain ⟨_, he⟩ := emits_portWrite c p s _; exact ⟨_, rfl, he.completes _⟩
  case ciaDir c p v => obtain ⟨_, he⟩ := emits_portWrite c p s _; exact ⟨_, rfl, he.completes _⟩
  case ciaLow c u v => exact ⟨_, rfl, (Emits.setCia s c _).completes _⟩
  case ciaHigh c u v => exact ⟨_, rfl, (Emits.setCia s c _).completes _⟩
  case icrRead c => exact ⟨_, rfl, (Emits.clearIcr c s).completes _⟩
  case icrWrite c v => exact ⟨_, rfl, (Emits.writeMask c v s).completes _⟩
  case control hw => exact ⟨_, rfl, (Emits.writeControl hw).completes _⟩
  case controlStop hw => rw [writeControl_error_stopped hw] at ht; cases ht

theorem execAdvance_output {n : BitVec 28} {s t : State} (h : execAdvance n s = .next t) (ht : t.stopped = false) :
    t.output = s.output := by
  unfold execAdvance at h
  split at h
  · cases h; cases ht
  split at h
  · cases h; rfl
  split at h
  · cases h; cases ht
  · cases h; rfl

theorem execReturn_output {s t : State} (h : execReturn s = .next t) (ht : t.stopped = false) :
    t.output = s.output := by
  unfold execReturn at h
  split at h <;> cases h
  · rfl
  · cases ht
  · cases ht

/-- Settles O55: every next state of an instruction but those of `ADVANCE` and `RETURN` is a stop or ends in its
response. -/
theorem oneResponsePerCommand : Obligations.OneResponsePerCommand := by
  intro i s t h _ ht
  split
  case isTrue hi =>
    obtain ⟨n, rfl⟩ | rfl := hi
    · exact execAdvance_output h ht
    · exact execReturn_output h ht
  case isFalse hi =>
    obtain ⟨hadvance, hret⟩ := not_or.1 hi
    obtain ⟨o, ho, r, es, he, rfl⟩ := (exec_effect h).completes (fun n hn => hadvance ⟨n, hn⟩) hret ht
    exact ⟨es, o, by rw [State.emit_output, he.output], ho, he.events⟩

/-! ## Reads and writes that complete -/

/-- The instruction goes on to a state that completes it with the response `o`. -/
def Answers (i : Instr) (s : State) (o : Output) : Prop := ∃ t, exec i s = .next t ∧ Completes s o t

theorem Completes.spelled {s t : State} {o : Output} (h : Completes s o t) :
    ∃ out, t.output = s.output ++ out ++ [o] ∧
      t.fault = s.fault ∧ t.refusal = s.refusal ∧ t.sweep = s.sweep ∧ t.cycle = s.cycle := by
  obtain ⟨r, es, he, rfl⟩ := h
  exact ⟨es, by rw [State.emit_output, he.output], he.fault, he.refusal, he.sweep, he.cycle⟩

/-- The registers beside the refused offsets are modelled (42_timer.md R262). -/
theorem regKind_modelled {a : Addr} (h : ¬ refusedOffset a) :
    regKind (a.toNat % 16) ≠ .tod ∧ regKind (a.toNat % 16) ≠ .serial := by
  have hk := at_regKind (Nat.mod_lt a.toNat (by decide : 0 < 16))
  unfold refusedOffset at h
  constructor <;> intro hr <;> rw [hr] at hk <;> simp only [RegKind.At] at hk <;> omega

theorem regKind_ne_control {a : Addr} (h : a.toNat % 16 < 0xE) : regKind (a.toNat % 16) ≠ .control := by
  have hk := at_regKind (Nat.mod_lt a.toNat (by decide : 0 < 16))
  intro hr
  rw [hr] at hk
  simp only [RegKind.At] at hk
  omega

theorem RegKind.readRow_answers {k : RegKind} (htod : k ≠ .tod) (hserial : k ≠ .serial) (c : Chip) (a : Addr)
    (s : State) : ∃ v, Answers (k.readRow c a) s (.readByte v) := by
  cases k
  case port => exact ⟨_, _, rfl, (Emits.afterDraw s).completes _⟩
  case icr => exact ⟨_, _, rfl, (Emits.clearIcr c s).completes _⟩
  case tod => exact absurd rfl htod
  case serial => exact absurd rfl hserial
  all_goals exact ⟨_, _, rfl, completes_emit s _⟩

theorem RegKind.writeRow_answers {k : RegKind} (htod : k ≠ .tod) (hserial : k ≠ .serial) (hcontrol : k ≠ .control)
    (c : Chip) (a : Addr) (v : Byte) (s : State) : Answers (k.writeRow c a v) s .writeAck := by
  cases k
  case port => obtain ⟨_, he⟩ := emits_portWrite c (portSel a) s _; exact ⟨_, rfl, he.completes _⟩
  case dir => obtain ⟨_, he⟩ := emits_portWrite c (portSel a) s _; exact ⟨_, rfl, he.completes _⟩
  case low => exact ⟨_, rfl, (Emits.setCia s c _).completes _⟩
  case high => exact ⟨_, rfl, (Emits.setCia s c _).completes _⟩
  case icr => exact ⟨_, rfl, (Emits.writeMask c v s).completes _⟩
  case tod => exact absurd rfl htod
  case serial => exact absurd rfl hserial
  case control => exact absurd rfl hcontrol

theorem ciaReadRow_answers {a : Addr} (h : ¬ refusedOffset a) (c : Chip) (s : State) :
    ∃ v, Answers (ciaReadRow c a) s (.readByte v) := by
  obtain ⟨htod, hserial⟩ := regKind_modelled h
  rw [ciaReadRow_eq]
  exact RegKind.readRow_answers htod hserial c a s

theorem ciaWriteRow_answers {a : Addr} (h : ¬ refusedOffset a) (h' : a.toNat % 16 < 0xE) (c : Chip) (v : Byte)
    (s : State) : Answers (ciaWriteRow c a v) s .writeAck := by
  obtain ⟨htod, hserial⟩ := regKind_modelled h
  rw [ciaWriteRow_eq]
  exact RegKind.writeRow_answers htod hserial (regKind_ne_control h') c a v s

theorem extReadRow_answers (x : ExtBank) (a : Addr) (s : State) : Answers (extReadRow x a) s (.readByte s.drawValue) := by
  have he : Completes s (.readByte s.drawValue) ((s.emit (.extRead x a)).afterDraw.emit (.readByte s.drawValue)) :=
    ((Emits.event rfl).trans (.afterDraw _)).completes _
  cases x
  case romh =>
    unfold extReadRow
    dsimp only
    split <;> exact ⟨_, rfl, he⟩
  all_goals exact ⟨_, rfl, he⟩

theorem extWriteRow_answers (x : ExtBank) (a : Addr) (v : Byte) (s : State) :
    Answers (extWriteRow x a v) s .writeAck := by
  have he : Completes s .writeAck ((s.emit (.extWrite x a v)).emit .writeAck) := (Emits.event rfl).completes _
  cases x <;> exact ⟨_, rfl, he⟩

/-- Every row of a read completes but those of a refused offset (R180). -/
theorem readRow_answers {b : Bank} {a : Addr} (h : b = .cia1 ∨ b = .cia2 → ¬ refusedOffset a) (s : State) :
    ∃ v, Answers (readRow b a) s (.readByte v) := by
  cases b
  case port =>
    unfold readRow
    dsimp only
    split
    · exact ⟨_, _, rfl, completes_emit s _⟩
    · exact ⟨_, _, rfl, (Emits.afterDraw s).completes _⟩
  case cia1 => exact ciaReadRow_answers (h (.inl rfl)) .cia1 s
  case cia2 => exact ciaReadRow_answers (h (.inr rfl)) .cia2 s
  case ext x => exact ⟨_, extReadRow_answers x a s⟩
  all_goals exact ⟨_, _, rfl, completes_emit s _⟩

/-- Every row of a write completes but those of a ROM, a refused offset or a control register (R181). -/
theorem writeRow_answers {b : Bank} {a : Addr} (hbasic : b ≠ .basic) (hkernal : b ≠ .kernal) (hchar : b ≠ .char)
    (h : b = .cia1 ∨ b = .cia2 → ¬ refusedOffset a ∧ a.toNat % 16 < 0xE) (v : Byte) (s : State) :
    Answers (writeRow b a v) s .writeAck := by
  cases b
  case basic => exact absurd rfl hbasic
  case kernal => exact absurd rfl hkernal
  case char => exact absurd rfl hchar
  case port =>
    unfold writeRow
    dsimp only
    split
    · exact ⟨_, rfl, Emits.completes (r := { s with portDdr := v }) .of_fields _⟩
    · exact ⟨_, rfl, Emits.completes (r := { s with portData := v }) .of_fields _⟩
  case ram => exact ⟨_, rfl, Emits.completes (r := { s with ram := _ }) .of_fields _⟩
  case color => exact ⟨_, rfl, Emits.completes (r := { s with color := _ }) .of_fields _⟩
  case openBus => exact ⟨_, rfl, completes_emit s _⟩
  case cia1 => exact ciaWriteRow_answers (h (.inl rfl)).1 (h (.inl rfl)).2 .cia1 v s
  case cia2 => exact ciaWriteRow_answers (h (.inr rfl)).1 (h (.inr rfl)).2 .cia2 v s
  case ext x => exact extWriteRow_answers x a v s

/-- A control register write that is not refused and whose tick does not overflow (R240). -/
theorem execWriteCiaCr_ok {c : Chip} {a : Addr} {v : Byte} {s t : State} (hv : crRunsOnCnt v = false)
    (ht : writeControl c (controlSel a) v s = .ok t) : execWriteCiaCr c a v s = .next (t.emit .writeAck) := by
  rw [execWriteCiaCr, hv, ht]
  rfl

theorem writeRow_control {c : Chip} {a : Addr} (h : 0xE ≤ a.toNat % 16) (v : Byte) :
    writeRow (chipBank c) a v = .writeCiaCr c a v := by
  have hk : regKind (a.toNat % 16) = .control := regKind_of_at (k := .control) (by simp only [RegKind.At]; omega)
  have hr : ciaWriteRow c a v = .writeCiaCr c a v := by rw [ciaWriteRow_eq, hk]; rfl
  cases c <;> exact hr

theorem controlSel_of_offset {a : Addr} (h : 0xE ≤ a.toNat % 16) :
    controlSel a = if a.toNat % 16 = 0xE then .a else .b := by
  rw [controlSel_eq]
  exact if_congr (by omega) rfl rfl

/-- Settles O27: each row but the excepted ones emits its events and then its response, and `Reconcile` stops a
control register write only on an overflow. -/
theorem busAccessesComplete : Obligations.BusAccessesComplete := by
  refine ⟨fun s a hb hc => ?_, fun s a v b hb hbasic hkernal hchar hc => ?_, fun s a v c u hb ho hu hv hfit => ?_⟩
  · obtain ⟨b, hb⟩ := Option.isSome_iff_exists.1 hb
    obtain ⟨v, t, ht, hdone⟩ := readRow_answers (b := b) (fun h => hc (by simpa [hb] using h)) s
    obtain ⟨out, hrest⟩ := hdone.spelled
    exact ⟨t, out, v, (exec_readRow hb).symm.trans ht, hrest⟩
  · obtain ⟨t, ht, hdone⟩ := writeRow_answers hbasic hkernal hchar hc v s
    obtain ⟨out, hrest⟩ := hdone.spelled
    exact ⟨t, out, (exec_writeRow v hb).symm.trans ht, hrest⟩
  · obtain ⟨r, hr⟩ : ∃ r, writeControl c u v s = .ok r := writeControl_ok hfit
    rw [hu, ← controlSel_of_offset ho] at hr
    have hcnt : crRunsOnCnt v = false := by simpa [crRunsOnCnt] using hv
    have he := Emits.writeControl hr
    refine ⟨r.emit .writeAck, ?_, by rw [State.emit_output, he.output, List.append_nil],
      he.fault, he.refusal, he.sweep, he.cycle⟩
    rw [← exec_writeRow v hb, writeRow_control ho]
    exact execWriteCiaCr_ok hcnt hr

end Sys2Proof.Machine
end

section
/-! PROOFS. The scheduler's commands (40_scheduler.md R143, R144, R146, R152), one equation per branch of each. -/

namespace Sys2Proof.Machine

theorem toNat_ofNat_of_le {n : Nat} (h : n ≤ maxU64) : (BitVec.ofNat 64 n).toNat = n :=
  Nat.mod_eq_of_lt (by unfold maxU64 at h; omega)

/-! ## `SCHEDULE` (R140, R143, R314) -/

theorem enqueue_cycleOverflow {s : State} {d : Nat} (hc : maxU64 < s.cycle.toNat + d) (p : Nat) (o : Owner) :
    s.enqueue d p o = .error (s.raiseFault .cycleOverflow) :=
  if_pos hc

theorem enqueue_seqOverflow {s : State} {d : Nat} (hc : s.cycle.toNat + d ≤ maxU64) (hn : s.nextSeq.toNat = maxU64)
    (p : Nat) (o : Owner) : s.enqueue d p o = .error (s.raiseFault .seqOverflow) :=
  (if_neg (Nat.not_lt.2 hc)).trans (if_pos hn)

theorem enqueue_fits {s : State} {d : Nat} (hc : s.cycle.toNat + d ≤ maxU64) (hn : s.nextSeq.toNat ≠ maxU64)
    (p : Nat) (o : Owner) :
    s.enqueue d p o = .ok (s.nextSeq, { s with
      queue := s.queue ++ [⟨BitVec.ofNat 64 (s.cycle.toNat + d), p, s.nextSeq, o⟩]
      nextSeq := s.nextSeq + 1#64 }) :=
  (if_neg (Nat.not_lt.2 hc)).trans (if_neg hn)

theorem exec_schedule_negative {d : BitVec 64} (hd : d.toInt < 0) (p : BitVec 4) (tag : BitVec 16) (s : State) :
    exec (.schedule d p tag) s = .next (s.raiseFault .negativeDelay) :=
  if_pos hd

theorem exec_schedule_badPhase {d : BitVec 64} {p : BitVec 4} {s : State} (hd : 0 ≤ d.toInt)
    (hp : s.cfg.nphase ≤ p.toNat) (tag : BitVec 16) :
    exec (.schedule d p tag) s = .next (s.raiseFault .badPhase) :=
  (if_neg (not_lt.2 hd)).trans (if_pos hp)

/-- With its two own checks passed, `SCHEDULE` stops where `Enqueue` does. -/
theorem exec_schedule_error {d : BitVec 64} {p : BitVec 4} {tag : BitVec 16} {s t : State} (hd : 0 ≤ d.toInt)
    (hp : p.toNat < s.cfg.nphase) (he : s.enqueue d.toNat p.toNat (.ext tag) = .error t) :
    exec (.schedule d p tag) s = .next t := by
  rw [exec, execSchedule, if_neg (not_lt.2 hd), if_neg (Nat.not_le.2 hp), he]

/-- With its two own checks passed, `SCHEDULE` answers the handle that `Enqueue` gives. -/
theorem exec_schedule_ok {d : BitVec 64} {p : BitVec 4} {tag : BitVec 16} {s t : State} {h : Handle}
    (hd : 0 ≤ d.toInt) (hp : p.toNat < s.cfg.nphase) (he : s.enqueue d.toNat p.toNat (.ext tag) = .ok (h, t)) :
    exec (.schedule d p tag) s = .next (t.emit (.scheduled h)) := by
  rw [exec, execSchedule, if_neg (not_lt.2 hd), if_neg (Nat.not_le.2 hp), he]

/-- Settles O28: the two checks of `SCHEDULE` come first, and then the three cases of `Enqueue`. -/
theorem scheduleQueuesAnEvent : Obligations.ScheduleQueuesAnEvent := by
  intro s d p tag
  refine ⟨fun hd => exec_schedule_negative hd p tag s, fun hd hp => exec_schedule_badPhase hd hp tag,
    fun hd hp hc => exec_schedule_error hd hp (enqueue_cycleOverflow hc _ _),
    fun hd hp hc hn => exec_schedule_error hd hp (enqueue_seqOverflow hc hn _ _), fun hd hp hc hn => ?_⟩
  have hn' : s.nextSeq.toNat ≠ maxU64 := Nat.ne_of_lt hn
  exact ⟨_, _, toNat_ofNat_of_le (by unfold maxU64; omega), nextSeq_succ hn',
    exec_schedule_ok hd hp (enqueue_fits hc hn' _ _)⟩

/-! ## `CANCEL` (R144) -/

/-- The live event with the handle of a queued event is that event. -/
theorem QueueOrdered.eventOf_seq {s : State} {e : Event} (hq : QueueOrdered s) (he : e ∈ s.queue) :
    s.eventOf e.seq = some e := by
  cases hf : s.eventOf e.seq with
  | none => exact absurd rfl (eventOf_eq_none.1 hf e he)
  | some f =>
    obtain ⟨hmem, hs⟩ := eventOf_some hf
    rw [hq.seq_inj hmem he hs]

/-- `Dequeue` of a queued event's handle removes that event and no other (R141). -/
theorem QueueOrdered.mem_dequeue_seq {s : State} {e : Event} (hq : QueueOrdered s) (he : e ∈ s.queue) (f : Event) :
    f ∈ (s.dequeue e.seq).queue ↔ f ∈ s.queue ∧ f ≠ e := by
  rw [mem_dequeue]
  refine and_congr_right fun hf => not_congr ⟨hq.seq_inj hf he, ?_⟩
  rintro rfl
  rfl

theorem dequeue_sublist (s : State) (h : Handle) : (s.dequeue h).queue.Sublist s.queue := List.filter_sublist

theorem exec_cancel_unissued {s : State} {h : Handle} (hn : s.nextSeq.toNat ≤ h.toNat) :
    exec (.cancel h) s = .next (s.raiseFault .badHandle) :=
  if_pos (BitVec.le_def.2 hn)

theorem exec_cancel_gone {s : State} {h : Handle} (hn : h.toNat < s.nextSeq.toNat)
    (he : ∀ e ∈ s.queue, e.seq ≠ h) : exec (.cancel h) s = .next (s.emit .cancelAck) := by
  rw [exec, execCancel, if_neg (BitVec.not_le.2 hn), eventOf_eq_none.2 he]

theorem exec_cancel_tick {s : State} {h : Handle} {e : Event} {c : Chip} {u : TimerId} (hn : h.toNat < s.nextSeq.toNat)
    (he : s.eventOf h = some e) (ho : e.owner = .tick c u) :
    exec (.cancel h) s = .next (s.raiseFault .badHandle) := by
  rw [exec, execCancel, if_neg (BitVec.not_le.2 hn), he]
  simp only [ho]

theorem exec_cancel_ext {s : State} {h : Handle} {e : Event} {tag : BitVec 16} (hn : h.toNat < s.nextSeq.toNat)
    (he : s.eventOf h = some e) (ho : e.owner = .ext tag) :
    exec (.cancel h) s = .next ((s.dequeue h).emit .cancelAck) := by
  rw [exec, execCancel, if_neg (BitVec.not_le.2 hn), he]
  simp only [ho]

/-- Settles O29: in an ordered queue a handle has at most one event, and a queued one was issued. -/
theorem cancelCases : Obligations.CancelCases := by
  intro s h hq
  refine ⟨exec_cancel_unissued, exec_cancel_gone, ?_⟩
  rintro e he rfl
  have hn : e.seq.toNat < s.nextSeq.toNat := hq.2 e he
  have hlive := hq.eventOf_seq he
  exact ⟨fun _ _ => exec_cancel_tick hn hlive,
    fun _ ho => ⟨_, hq.mem_dequeue_seq he, dequeue_sublist s e.seq, exec_cancel_ext hn hlive ho⟩⟩

/-! ## `ADVANCE` (R146) and `RETURN` (R152) -/

/-- `ADVANCE` within an `ADVANCE` stops. -/
theorem exec_advance_reentrant {s : State} (hs : s.sweep ≠ .idle) (n : BitVec 28) :
    exec (.advance n) s = .next (s.raiseFault .reentrantAdvance) :=
  if_pos hs

theorem exec_advance_zero {s : State} (hs : s.sweep = .idle) :
    exec (.advance 0#28) s = .next { s with sweep := .sweep 0#64 } :=
  (if_neg (not_not.2 hs)).trans (if_pos rfl)

theorem exec_advance_overflow {s : State} {n : BitVec 28} (hs : s.sweep = .idle) (hn : n ≠ 0#28)
    (hc : maxU64 < s.cycle.toNat + n.toNat) :
    exec (.advance n) s = .next (s.raiseFault .cycleOverflow) :=
  (if_neg (not_not.2 hs)).trans ((if_neg hn).trans (if_pos hc))

theorem exec_advance_starts {s : State} {n : BitVec 28} (hs : s.sweep = .idle) (hn : n ≠ 0#28)
    (hc : s.cycle.toNat + n.toNat ≤ maxU64) :
    exec (.advance n) s =
      .next { s with cycle := s.cycle + 1#64, sweep := .sweep (BitVec.ofNat 64 (n.toNat - 1)) } :=
  (if_neg (not_not.2 hs)).trans ((if_neg hn).trans (if_neg (Nat.not_lt.2 hc)))

/-- Settles O30: the four branches of `ADVANCE`, whose last adds one to a cycle below the last one. -/
theorem advanceStartsTheSweep : Obligations.AdvanceStartsTheSweep := by
  intro s n
  have hzero : n.toNat ≠ 0 → n ≠ 0#28 := fun hn h => hn (by rw [h]; rfl)
  refine ⟨fun hs => exec_advance_reentrant hs n, fun hs hn => ?_,
    fun hs hn hc => exec_advance_overflow hs (hzero hn) hc, fun hs hn hc => ?_⟩
  · obtain rfl : n = 0#28 := BitVec.eq_of_toNat_eq hn
    exact exec_advance_zero hs
  · have hlast : s.cycle.toNat ≠ maxU64 := by unfold maxU64; omega
    exact ⟨_, _, nextSeq_succ hlast, toNat_ofNat_of_le (by unfold maxU64; omega),
      exec_advance_starts hs (hzero hn) hc⟩

theorem exec_ret_await {s : State} {h : Handle} {rem : BitVec 64} (hs : s.sweep = .await h rem) :
    exec .ret s = .next (s.resumeSweep rem) := by
  rw [exec, execReturn, hs]

theorem exec_ret_unexpected {s : State} (hs : ∀ h rem, s.sweep ≠ .await h rem) :
    exec .ret s = .next (s.raiseFault .unexpectedReturn) := by
  rw [exec, execReturn]
  split
  · exact absurd ‹_› (hs _ _)
  · rfl
  · rfl

/-- Settles O31: `RETURN` depends on the sweep state alone. -/
theorem returnResumesTheSweep : Obligations.ReturnResumesTheSweep :=
  fun _ => ⟨fun _ _ => exec_ret_await, exec_ret_unexpected⟩

end Sys2Proof.Machine
end

section
/-! PROOFS. What fires: no instruction does (40_scheduler.md R153), a sweep step fires the least due event (R147,
R148, R151) or ends the sweep at its cycle (R150), and no event fires twice (R155). -/

namespace Sys2Proof.Machine

/-! ## Updates that fire nothing -/

theorem firedHandles_append (os ps : List Output) : firedHandles (os ++ ps) = firedHandles os ++ firedHandles ps :=
  List.filterMap_append

theorem firedHandles_response {o : Output} (ho : o.isResponse = true) : firedHandles [o] = [] := by
  cases o
  case fire => cases ho
  all_goals rfl

/-- From `s` to `t` no `FIRE` is emitted, and the sweep state stays. -/
def Unfired (s t : State) : Prop := firedHandles t.output = firedHandles s.output ∧ t.sweep = s.sweep

theorem Unfired.trans {s t r : State} (h : Unfired s t) (h' : Unfired t r) : Unfired s r :=
  ⟨h'.1.trans h.1, h'.2.trans h.2⟩

theorem Unfired.of_fields {s t : State} (houtput : t.output = s.output := by rfl)
    (hsweep : t.sweep = s.sweep := by rfl) : Unfired s t :=
  ⟨by rw [houtput], hsweep⟩

theorem Emits.unfired {s t : State} (h : Emits [] s t) : Unfired s t :=
  .of_fields (by rw [h.output, List.append_nil]) h.sweep

theorem Unfired.emit (s : State) {o : Output} (ho : firedHandles [o] = []) : Unfired s (s.emit o) :=
  ⟨by rw [State.emit_output, firedHandles_append, ho, List.append_nil], rfl⟩

/-- An update that fires nothing, and then the response. -/
theorem Unfired.respond {s t : State} (h : Unfired s t) {o : Output} (ho : o.isResponse = true := by rfl) :
    Unfired s (t.emit o) :=
  h.trans (.emit t (firedHandles_response ho))

theorem Unfired.raiseFault (s : State) (c : FaultCode) : Unfired s (s.raiseFault c) :=
  .trans (t := { s with fault := some c }) .of_fields (.emit _ rfl)

theorem Unfired.raiseRefusal (s : State) (c : RefusalCode) : Unfired s (s.raiseRefusal c) :=
  .trans (t := { s with refusal := some c }) .of_fields (.emit _ rfl)

/-- The side effect of a port write emits `SIDE` at most (42_timer.md R268). -/
theorem unfired_portWrite (c : Chip) (p : TimerId) (s : State) (x : Cia) :
    Unfired s (afterPortWrite c p (s.setCia c x)) := by
  refine (Emits.setCia s c x).unfired.trans ?_
  unfold afterPortWrite
  split
  case h_1 =>
    unfold updateSide
    dsimp only
    split
    · exact .of_fields
    · exact .trans (t := { s.setCia .cia1 x with side := sideLevel (s.setCia .cia1 x).cia1 }) .of_fields (.emit _ rfl)
  all_goals exact .of_fields

theorem unfired_reconcile (c : Chip) (u : TimerId) (s : State) : Unfired s (settled (reconcile c u s)) := by
  obtain ⟨t, h, he⟩ | ⟨f, h⟩ := reconcile_outcome c u s <;> rw [h]
  · exact he.unfired
  · exact .raiseFault s f

theorem unfired_writeControl (c : Chip) (u : TimerId) (v : Byte) (s : State) :
    Unfired s (settled (writeControl c u v s)) := by
  obtain ⟨x, hx, -⟩ := writeControl_split c u v s
  rw [hx]
  exact (Emits.setCia s c x).unfired.trans (unfired_reconcile c u _)

/-- A timer tick fires no external event (40_scheduler.md R148). -/
theorem unfired_fireTick (c : Chip) (u : TimerId) (s : State) : Unfired s (settled (fireTick c u s)) := by
  obtain ⟨t, ht, h⟩ := settled_fireTick c u s
  rw [h]
  have htick : Unfired (s.setTick c u none) t := .of_fields (tick_quiet ht).output (tick_frame ht).sweep
  exact ((Emits.setCia s c _).unfired.trans htick).trans (unfired_reconcile c u t)

/-! ## Instructions (R153) -/

/-- An instruction fires nothing: it leaves the sweep state too, or it is the `ADVANCE` or `RETURN` that moves the
sweep state and emits nothing. -/
theorem Effect.unfired {i : Instr} {s t : State} (he : Effect i s t) :
    Unfired s t ∨ (((∃ n, i = .advance n) ∨ i = .ret) ∧ t.output = s.output) := by
  cases he
  case advanceZero hi _ => exact .inr ⟨.inl ⟨_, hi⟩, rfl⟩
  case advance n hi _ _ _ => exact .inr ⟨.inl ⟨n, hi⟩, rfl⟩
  case ret hi _ => exact .inr ⟨.inr hi, rfl⟩
  all_goals left
  case respond o ho => exact .emit s (firedHandles_response ho)
  case draw v => exact (Emits.afterDraw s).unfired.respond
  case extRead x a => exact ((Unfired.emit s rfl).trans (Emits.afterDraw _).unfired).respond
  case extWrite x a v => exact (Unfired.emit s rfl).respond
  case fault c => exact .raiseFault s c
  case refuse c => exact .raiseRefusal s c
  case portDdr v _ => exact Unfired.respond (t := { s with portDdr := v }) .of_fields
  case portData v _ => exact Unfired.respond (t := { s with portData := v }) .of_fields
  case ram a v _ => exact Unfired.respond (t := { s with ram := _ }) .of_fields
  case color a v _ => exact Unfired.respond (t := { s with color := _ }) .of_fields
  case busByte b _ => exact Unfired.respond (t := { s with busByte := b }) .of_fields
  case cart p e g _ => exact Unfired.respond (t := { s with cart := ⟨p, e, g⟩ }) .of_fields
  case schedule hq => exact (Emits.enqueue hq).unfired.respond
  case scheduleStop hq => obtain ⟨f, rfl⟩ := enqueue_error hq; exact .raiseFault s f
  case cancel h e tag _ _ _ => exact Unfired.respond (t := s.dequeue h) .of_fields
  case assert l src b _ => exact (Emits.assertLine s l src b).unfired.respond
  case ack _ => exact Unfired.respond (t := { s with nmiPending := false }) .of_fields
  case ciaPort c p v => exact (unfired_portWrite c p s _).respond
  case ciaDir c p v => exact (unfired_portWrite c p s _).respond
  case ciaLow c u v => exact (Emits.setCia s c _).unfired.respond
  case ciaHigh c u v => exact (Emits.setCia s c _).unfired.respond
  case icrRead c => exact (Emits.clearIcr c s).unfired.respond
  case icrWrite c v => exact (Emits.writeMask c v s).unfired.respond
  case control hw => exact (Emits.writeControl hw).unfired.respond
  case controlStop c u v _ hw =>
    have hstop := unfired_writeControl c u v s
    rw [hw] at hstop
    exact hstop

theorem exec_firedHandles {i : Instr} {s t : State} (h : exec i s = .next t) :
    firedHandles t.output = firedHandles s.output := by
  obtain ⟨ho, -⟩ | ⟨-, ho⟩ := (exec_effect h).unfired
  · exact ho
  · rw [ho]

/-- Settles O35: no shape of update by an instruction emits a `FIRE`. -/
theorem noSynchronousFiring : Obligations.NoSynchronousFiring := by
  refine fun i s t h => ⟨exec_firedHandles h, fun hadvance hret => ?_⟩
  obtain ⟨-, hs⟩ | ⟨⟨n, hi⟩ | hi, -⟩ := (exec_effect h).unfired
  · exact hs
  · exact absurd hi (hadvance n)
  · exact absurd hi hret

/-! ## The sweep step (R147 to R151) -/

theorem sweepStep_nothing_due {s : State} (h : ∀ e ∈ s.queue, s.cycle.toNat < e.target.toNat) (rem : BitVec 64) :
    sweepStep rem s = endSweep rem s := by
  obtain ⟨-, hend⟩ | ⟨e, he, hdue, -⟩ := sweepStep_cases rem s
  · exact hend
  · exact absurd (h e he) (Nat.not_lt.2 hdue)

/-- Settles O33: with nothing due, a sweep step is the end of the sweep at its cycle. -/
theorem sweepEndsWhenNothingIsDue : Obligations.SweepEndsWhenNothingIsDue := by
  intro s rem hst hs hdue
  rw [step_of_sweep hst hs, sweepStep_nothing_due hdue, endSweep]
  refine ⟨fun hr => ?_, fun hr hc => ?_⟩
  · rw [if_pos (BitVec.eq_of_toNat_eq hr)]
    rfl
  · have hne : rem ≠ 0#64 := fun h => hr (by rw [h]; rfl)
    have hlast : s.cycle.toNat ≠ maxU64 := by unfold maxU64; omega
    rw [if_neg hne]
    exact ⟨_, _, nextSeq_succ hlast, BitVec.toNat_sub_of_le (by rw [BitVec.le_def]; simp; omega), rfl⟩

/-- The least due event is the one before every other due event in the firing order (R142). -/
theorem leastEvent_due {s : State} {e : Event} (he : e ∈ s.queue) (hdue : e.target.toNat ≤ s.cycle.toNat)
    (hleast : ∀ f ∈ s.queue, f.target.toNat ≤ s.cycle.toNat → f ≠ e → eventLess e f = true) :
    leastEvent s.due = some e := by
  have hmem : e ∈ s.due := mem_due.2 ⟨he, hdue⟩
  cases hl : leastEvent s.due with
  | none => rw [leastEvent_eq_none.1 hl] at hmem; cases hmem
  | some f =>
    obtain ⟨hf, hfdue⟩ := mem_due.1 (leastEvent_mem hl)
    by_contra hne
    have hless := hleast f hf hfdue fun h => hne (by rw [h])
    rw [leastEvent_least hl e hmem] at hless
    cases hless

theorem eq_settled (r : Except State State) : r = .ok (settled r) ∨ r = .error (settled r) := by
  cases r
  · exact .inr rfl
  · exact .inl rfl

/-- Settles O32: an event before every other due one is the least due event, which the sweep step removes and then
fires. -/
theorem sweepFiresTheLeastDueEvent : Obligations.SweepFiresTheLeastDueEvent := by
  intro s rem e hst hs hq he hdue hleast
  have hsel : leastEvent s.due = some e := leastEvent_due he hdue fun f hf hfdue hne =>
    (eventLess_iff e f).2 (by simpa only [BitVec.toNat_eq] using hleast f hf hfdue hne)
  have hstep : step s = .next (fireEvent e rem (s.dequeue e.seq)) := by
    rw [step_of_sweep hst hs, sweepStep, hsel]
  rw [hstep]
  refine ⟨_, hq.mem_dequeue_seq he, dequeue_sublist s e.seq, fun tag ho => ?_, fun c u ho => ?_⟩
  · rw [fireEvent, ho]
    rfl
  · obtain ⟨hfired, hsweep⟩ := unfired_fireTick c u (s.dequeue e.seq)
    refine ⟨settled (fireTick c u (s.dequeue e.seq)), ?_, hsweep.trans hs, hfired, eq_settled _⟩
    rw [fireEvent, ho]

/-! ## At most once (R155) -/

/-- A step that emits no `FIRE` keeps the fired handles gone: a new event has a new handle (10_state.md R23). -/
theorem FiredOnce.grows {s t : State} (hf : FiredOnce s) (hq : QueueOrdered s) (hg : QueueGrows s t)
    (ho : firedHandles t.output = firedHandles s.output) : FiredOnce t := by
  obtain ⟨-, hle, hnew⟩ := hg hq
  obtain ⟨hgone, hnodup⟩ := hf
  unfold FiredOnce
  rw [ho]
  refine ⟨fun h hh => ?_, hnodup⟩
  obtain ⟨hlt, hne⟩ := hgone h hh
  rw [BitVec.lt_def] at hlt ⊢
  refine ⟨by omega, fun e he hs => ?_⟩
  rcases hnew e he with hold | hnew
  · exact hne e hold hs
  · rw [hs] at hnew; omega

/-- A queued event that leaves the queue and fires had not fired before. -/
theorem FiredOnce.fire {s t : State} {e : Event} {tag : BitVec 16} (hf : FiredOnce s) (hq : QueueOrdered s)
    (he : e ∈ s.queue) (hqueue : t.queue = (s.dequeue e.seq).queue) (hnext : t.nextSeq = s.nextSeq)
    (ho : t.output = s.output ++ [.fire e.seq tag]) : FiredOnce t := by
  obtain ⟨hgone, hnodup⟩ := hf
  have hfired : firedHandles t.output = firedHandles s.output ++ [e.seq] := by
    rw [ho, firedHandles_append]
    rfl
  have hfresh : e.seq ∉ firedHandles s.output := fun h => (hgone e.seq h).2 e he rfl
  unfold FiredOnce
  rw [hfired, hqueue, hnext]
  refine ⟨fun h hh => ?_, by simpa using hnodup.concat hfresh⟩
  rcases List.mem_append.1 hh with hh | hh
  · exact ⟨(hgone h hh).1, fun f hmem => (hgone h hh).2 f (mem_dequeue.1 hmem).1⟩
  · obtain rfl := List.mem_singleton.1 hh
    exact ⟨hq.2 e he, fun f hmem => (mem_dequeue.1 hmem).2⟩

/-- A sweep step fires nothing, or one event of the queue, which it has removed. -/
theorem sweepStep_firedOnce {s : State} (hf : FiredOnce s) (hq : QueueOrdered s) (rem : BitVec 64) :
    FiredOnce (sweepStep rem s) := by
  have hg := sweepStep_grows rem s
  obtain ⟨-, h⟩ | ⟨e, he, -, -, ⟨tag, -, h⟩ | ⟨c, u, -, h⟩⟩ := sweepStep_cases rem s <;> rw [h] at hg ⊢
  · refine hf.grows hq hg ?_
    unfold endSweep
    split
    · exact (Unfired.emit { s with sweep := .idle } rfl).1
    · rfl
  · exact hf.fire hq he rfl rfl rfl
  · exact hf.grows hq hg (unfired_fireTick c u (s.dequeue e.seq)).1

/-- Settles O37: only a sweep step fires, and what it fires leaves the queue, whose new events have new handles. -/
theorem eventsFireAtMostOnce : Obligations.EventsFireAtMostOnce := by
  intro s t hq hf h
  have hg := step_grows h
  refine ⟨?_, (hg hq).2⟩
  obtain ⟨-, ⟨rem, -, rfl⟩ | ⟨-, rfl | ⟨f, -, rfl⟩ | ⟨f, i, -, -, hx⟩⟩⟩ := step_cases h
  · exact sweepStep_firedOnce hf hq rem
  · exact hf
  · exact hf.grows hq hg (Unfired.raiseFault { s with commands := f.rest } .illegalCommand).1
  · have ho := exec_firedHandles hx
    exact hf.grows hq hg ho

end Sys2Proof.Machine
end

section
/-! PROOFS. The binding law: what changes the Bank an address is bound to (41_address_space.md R201; 20_memory.md
R85). -/

namespace Sys2Proof.Machine

/-! ## What the bindings are a function of, through each named update -/

@[simp] theorem State.mapConfig_setCia (s : State) (c : Chip) (x : Cia) : (s.setCia c x).mapConfig = s.mapConfig := by
  cases c <;> rfl

@[simp] theorem State.mapConfig_assertLine (s : State) (l : Line) (i : BitVec 4) (b : Bool) :
    (s.assertLine l i b).mapConfig = s.mapConfig := by
  cases l <;> rfl

@[simp] theorem State.mapConfig_raiseInterrupt (s : State) (c : Chip) (b : Bool) :
    (s.raiseInterrupt c b).mapConfig = s.mapConfig := by
  cases c <;> rfl

theorem afterPortWrite_mapConfig (c : Chip) (p : TimerId) (s : State) :
    (afterPortWrite c p s).mapConfig = s.mapConfig := by
  unfold afterPortWrite
  split
  case h_1 => obtain ⟨b, o, h⟩ := updateSide_eq s; rw [h]; rfl
  all_goals rfl

theorem clearIcr_mapConfig (c : Chip) (s : State) : (clearIcr c s).mapConfig = s.mapConfig := by
  unfold clearIcr
  dsimp only
  split <;> simp

theorem writeMask_mapConfig (c : Chip) (v : Byte) (s : State) : (writeMask c v s).mapConfig = s.mapConfig := by
  unfold writeMask
  dsimp only
  split <;> simp

/-! ## Instructions and sweep steps -/

/-- Of an instruction's updates, those of the port and of the cartridge signals rebind, and no other does. -/
theorem Effect.mapConfig {i : Instr} {s t : State} (he : Effect i s t) (hi : rebinds i = false) :
    t.mapConfig = s.mapConfig := by
  cases he
  case portDdr hw => obtain rfl | rfl := hw <;> cases hi
  case portData hw => obtain rfl | rfl := hw <;> cases hi
  case cart hc => subst hc; cases hi
  case schedule hq => obtain ⟨_, rfl⟩ := enqueue_ok hq; rfl
  case scheduleStop hq => obtain ⟨_, rfl⟩ := enqueue_error hq; rfl
  case assert l src b _ => exact s.mapConfig_assertLine l src b
  case ciaPort c p v => exact (afterPortWrite_mapConfig c p _).trans (s.mapConfig_setCia c _)
  case ciaDir c p v => exact (afterPortWrite_mapConfig c p _).trans (s.mapConfig_setCia c _)
  case ciaLow c u v => exact s.mapConfig_setCia c _
  case ciaHigh c u v => exact s.mapConfig_setCia c _
  case icrRead c => exact clearIcr_mapConfig c s
  case icrWrite c v => exact writeMask_mapConfig c v s
  case control c u v r _ hw =>
    have hf := writeControl_frame c u v s
    rw [hw] at hf
    exact hf.mapConfig
  case controlStop c u v _ hw =>
    have hf := writeControl_frame c u v s
    rw [hw] at hf
    exact hf.mapConfig
  all_goals rfl

theorem sweepStep_mapConfig (rem : BitVec 64) (s : State) : (sweepStep rem s).mapConfig = s.mapConfig := by
  obtain ⟨-, h⟩ | ⟨e, -, -, -, ⟨tag, -, h⟩ | ⟨c, u, -, h⟩⟩ := sweepStep_cases rem s <;> rw [h]
  · unfold endSweep
    split <;> rfl
  · rfl
  · exact (fireTick_frame c u (s.dequeue e.seq)).mapConfig

/-! ## The parameters -/

theorem Change.cfg {i : Instr} {s t : State} (hc : Change i s t) : t.cfg = s.cfg := by
  cases hc
  case enqueue he => obtain ⟨_, rfl⟩ := enqueue_ok he; rfl
  case control c u v _ => exact (writeControl_frame c u v s).cfg
  all_goals rfl

theorem SweepChange.cfg {rem : BitVec 64} {s t : State} (hc : SweepChange rem s t) : t.cfg = s.cfg := by
  cases hc
  case tick e c u _ _ => exact (fireTick_frame c u _).cfg
  all_goals rfl

theorem step_cfg {s t : State} (h : step s = .next t) : t.cfg = s.cfg :=
  step_invariant (P := fun r => r.cfg = s.cfg) (fun ha => ha.cfg.trans) (fun _ hc => hc.cfg.trans)
    (fun _ _ hc => hc.cfg.trans) rfl h

/-- Settles O17: the only updates of what the bindings are a function of are those of the port and of `CART`. -/
theorem onlyPortAndCartRebind : Obligations.OnlyPortAndCartRebind :=
  ⟨fun _ _ _ h hi => (exec_effect h).mapConfig hi, sweepStep_mapConfig, fun _ _ => step_cfg⟩

end Sys2Proof.Machine
end

section
/-! PROOFS. Reads and writes of the Banks that are no timer chip (41_address_space.md R182 to R197), and the
configuration commands (R199, R200). -/

namespace Sys2Proof.Machine

/-! ## RAM (R182, R183) -/

/-- Settles O19: the RAM after the write reads the byte at its address, and every other byte as before. -/
theorem ramReadAndWrite : Obligations.RamReadAndWrite := by
  rintro s a v ⟨hram, -⟩
  refine ⟨rfl, Memory.write s.ram a v, ?_, fun b hb => ?_, rfl⟩
  · rw [Memory.read_write hram, if_pos rfl]
  · rw [Memory.read_write hram, if_neg hb.symm]

/-! ## The ROM images (R184, R185) -/

/-- The Banks of the ROM images (20_memory.md R77). -/
def IsRom (b : Bank) : Prop := b = .basic ∨ b = .kernal ∨ b = .char

/-- R81's pages name no ROM. -/
theorem ioDecodeDefault_not_rom (p : PlaInputs) (pg : BitVec 4) : ¬ IsRom (ioDecodeDefault p pg) := by
  unfold ioDecodeDefault
  dsimp only
  split_ifs <;> simp [IsRom]

/-- R82's table names no ROM: a write under a ROM goes to RAM. -/
theorem defaultBank_plaWriteDefault_not_rom (p : PlaInputs) (d : Option Target) (r pg : BitVec 4) :
    ¬ IsRom (defaultBank p pg (plaWriteDefault p d r)) := by
  rcases plaWriteDefault_cases p d r with h | h | h | h | ⟨h, -⟩ <;> rw [h]
  case inr.inr.inr.inr => exact ioDecodeDefault_not_rom p pg
  all_goals simp [IsRom, defaultBank]

/-- Under the default write table no `WRITE` reaches a ROM, whatever the read table. -/
theorem writeBank_default_not_rom {c : MapConfig} {a : Addr} {b : Bank} (hw : c.plaWrite = none)
    (hb : writeBank c a = some b) : ¬ IsRom b := by
  rw [writeBank, hw] at hb
  split at hb
  · cases hb; simp [IsRom]
  · rw [writeRegion, entryBank_default (plaWriteDefault_ne_port _ _ _)] at hb
    cases hb
    exact defaultBank_plaWriteDefault_not_rom _ _ _ _

theorem writeRow_rom {b : Bank} (h : IsRom b) (a : Addr) (v : Byte) : writeRow b a v = .writeRom a v := by
  obtain rfl | rfl | rfl := h <;> rfl

/-- Settles O20: a ROM is indexed by the address modulo its size, and the three ROM Banks share one row of a write,
which no default table reaches. -/
theorem romAccess : Obligations.RomAccess := by
  refine ⟨fun s a => ?_, fun s a v => rfl, fun s a v b hrom => ⟨fun hb => ?_, fun hw hb => ?_⟩⟩
  · rw [← romIndex8K_toNat, ← romIndex4K_toNat]
    exact ⟨rfl, rfl, rfl⟩
  · rw [← exec_writeRow v hb, writeRow_rom hrom]
  · exact writeBank_default_not_rom hw hb hrom

/-! ## Colour RAM (R189, R190) -/

/-- A byte is its high nibble over its low one. -/
theorem colorByte_eq_append (bus : Byte) (n : BitVec 4) : colorByte bus n = bus.extractLsb' 4 4 ++ n := by
  unfold colorByte
  apply BitVec.eq_of_getLsbD_eq
  intro i hi
  rw [BitVec.getLsbD_append]
  interval_cases i <;> simp

theorem colorByte_toNat (bus : Byte) (n : BitVec 4) : (colorByte bus n).toNat = bus.toNat / 16 * 16 + n.toNat := by
  have hn := n.isLt
  have hbus := bus.isLt
  rw [colorByte_eq_append, BitVec.toNat_append, ← Nat.shiftLeft_add_eq_or_of_lt hn, Nat.shiftLeft_eq,
    BitVec.extractLsb'_toNat, Nat.shiftRight_eq_div_pow]
  omega

theorem lowNibble_toNat (v : Byte) : (v.extractLsb' 0 4).toNat = v.toNat % 16 := by
  simp [BitVec.extractLsb'_toNat]

/-- Settles O21: the byte read is two nibbles, and the colour RAM after the write reads the low nibble at its index,
and every other nibble as before. -/
theorem colourRamReadAndWrite : Obligations.ColourRamReadAndWrite := by
  rintro s a v ⟨-, hcolor⟩
  rw [← colorIndex_eq]
  refine ⟨⟨_, colorByte_toNat _ _, rfl⟩, ColorRam.write s.color (colorIndex a) (v.extractLsb' 0 4), ?_,
    fun k hk => ?_, rfl⟩
  · rw [ColorRam.read_write hcolor, if_pos rfl, lowNibble_toNat]
  · rw [ColorRam.read_write hcolor, if_neg hk.symm]

/-! ## The CPU I/O port (R186 to R188) -/

/-- Line by line, an output reads the register and an input the pin. -/
theorem getLsbD_mixLines (data ddr pins : Byte) {i : Nat} (hi : i < 8) :
    (mixLines data ddr pins).getLsbD i = if ddr.getLsbD i then data.getLsbD i else pins.getLsbD i := by
  simp only [mixLines, BitVec.getLsbD_or, BitVec.getLsbD_and, BitVec.getLsbD_not, hi, decide_true, Bool.true_and]
  cases ddr.getLsbD i <;> simp

/-- The pins of lines 2:0 are 1 (00_scope.md R11). -/
theorem getLsbD_portPins (v : Byte) {i : Nat} (hi : i < 8) :
    (portPins v).getLsbD i = if i < 3 then true else v.getLsbD i := by
  interval_cases i <;> simp [portPins]

/-- Settles O18: the port's data register reads as its lines, and the two port addresses reach the two registers in
every configuration (20_memory.md R83). -/
theorem cpuPortAccess : Obligations.CpuPortAccess := by
  refine ⟨fun s => ⟨rfl, mixLines s.portData s.portDdr (portPins s.drawValue), fun i hi => ?_, rfl⟩,
    fun s v => ⟨rfl, ?_, rfl, ?_⟩⟩
  · rw [getLsbD_mixLines _ _ _ hi, getLsbD_portPins _ hi]
  · exact (exec_writeRow (b := .port) v rfl).symm
  · exact (exec_writeRow (b := .port) v rfl).symm

/-! ## The disconnected bus (R191, R192) -/

/-- Settles O22: a `READ` or `WRITE` of an address bound to `OPEN` is its row, which depends on the bus byte alone. -/
theorem disconnectedBus : Obligations.DisconnectedBus :=
  fun _ _ v => ⟨rfl, rfl, fun hb => (exec_readRow hb).symm, fun hb => (exec_writeRow v hb).symm⟩

/-! ## External Banks (R195 to R197), and their words (30_encoding.md R124, R125) -/

theorem place_zero {n : Nat} (v : BitVec n) : place v 0 = BitVec.ofNat 32 v.toNat := by
  rw [place, BitVec.shiftLeft_zero, BitVec.ofNat_toNat]

/-- A byte placed in the low bits of a word that has none there is added to it. -/
theorem or_place_byte {w : Word} (hw : w.toNat % 256 = 0) (b : Byte) :
    w ||| place b 0 = BitVec.ofNat 32 (w.toNat + b.toNat) := by
  have hb : b.toNat < 2 ^ 8 := b.isLt
  have hsplit : 2 ^ 8 * (w.toNat / 256) = w.toNat := by omega
  have hor : w.toNat ||| b.toNat = w.toNat + b.toNat := by
    rw [← hsplit]
    exact (Nat.two_pow_add_eq_or_of_lt hb _).symm
  rw [← hor, BitVec.ofNat_or, ← place_zero b, BitVec.ofNat_toNat, BitVec.setWidth_eq]

theorem readByte_words (b : Byte) : Output.words (.readByte b) = [BitVec.ofNat 32 (0x10000000 + b.toNat)] := by
  rw [Output.words, or_place_byte rfl]
  rfl

theorem writeAck_words : Output.words .writeAck = [0x20000000#32] := rfl

theorem extRead_words (x : ExtBank) (a : Addr) :
    Output.words (.extRead x a) =
      [BitVec.ofNat 32 (0xF3000000 + (extCode x).toNat * 256), BitVec.ofNat 32 a.toNat] := by
  rw [Output.words, place_zero a]
  cases x <;> rfl

theorem extWrite_words (x : ExtBank) (a : Addr) (v : Byte) :
    Output.words (.extWrite x a v) =
      [BitVec.ofNat 32 (0xF2000000 + (extCode x).toNat * 256 + v.toNat), BitVec.ofNat 32 a.toNat] := by
  rw [Output.words, place_zero a]
  cases x <;> rw [or_place_byte rfl] <;> rfl

/-- A row that reads an external Bank changes nothing but the draws and the output, whose words are these. -/
theorem extRead_access (x : ExtBank) (a : Addr) (s : State) :
    ∃ out, extRead x a s = .next { s with output := out, oracle := s.oracle.tail, drawn := s.drawn + 1 } ∧
      out.flatMap Output.words = s.outputWords ++
        [BitVec.ofNat 32 (0xF3000000 + (extCode x).toNat * 256), BitVec.ofNat 32 a.toNat,
          BitVec.ofNat 32 (0x10000000 + s.drawValue.toNat)] :=
  ⟨_, rfl, by simp [State.outputWords, extRead_words, readByte_words]⟩

/-- A row that writes an external Bank changes nothing but the output, whose words are these. -/
theorem extWrite_access (x : ExtBank) (a : Addr) (v : Byte) (s : State) :
    ∃ out, extWrite x a v s = .next { s with output := out } ∧
      out.flatMap Output.words = s.outputWords ++
        [BitVec.ofNat 32 (0xF2000000 + (extCode x).toNat * 256 + v.toNat), BitVec.ofNat 32 a.toNat, 0x20000000#32] :=
  ⟨_, rfl, by
    simp [State.outputWords, extWrite_words, writeAck_words]⟩

/-- Settles O23: each row of an external Bank is the access of its Bank, whose code is the row's. -/
theorem externalAccess : Obligations.ExternalAccess := by
  refine ⟨fun s a i code h => ?_, fun s a v i code h => ?_⟩ <;>
    simp only [List.mem_cons, Prod.mk.injEq, List.not_mem_nil, or_false] at h
  · obtain ⟨rfl, rfl⟩ | ⟨rfl, rfl⟩ | ⟨rfl, rfl⟩ | ⟨rfl, rfl⟩ | ⟨rfl, rfl⟩ | ⟨rfl, rfl⟩ | ⟨rfl, rfl⟩ := h
    · exact extRead_access .vic a s
    · exact extRead_access .sid a s
    · exact extRead_access .roml a s
    · exact extRead_access .romh a s
    · exact extRead_access .romh a s
    · exact extRead_access .io1 a s
    · exact extRead_access .io2 a s
  · obtain ⟨rfl, rfl⟩ | ⟨rfl, rfl⟩ | ⟨rfl, rfl⟩ | ⟨rfl, rfl⟩ | ⟨rfl, rfl⟩ | ⟨rfl, rfl⟩ := h
    · exact extWrite_access .vic a v s
    · exact extWrite_access .sid a v s
    · exact extWrite_access .roml a v s
    · exact extWrite_access .romh a v s
    · exact extWrite_access .io1 a v s
    · exact extWrite_access .io2 a v s

/-! ## Configuration commands, and `CYCLE` (R199, R200; 40_scheduler.md R145) -/

/-- Settles O24: each command is one update and its response, with no condition on the state. -/
theorem setbusCartAndCycle : Obligations.SetbusCartAndCycle := fun _ _ _ _ _ => ⟨rfl, rfl, rfl⟩

end Sys2Proof.Machine
end

section
/-! PROOFS. Source 0 of each interrupt line and `nmiPrev` (42_timer.md R252, R266; 43_interrupts.md R293, R300). -/

namespace Sys2Proof.Machine

/-! ## Updates that keep the levels and the interrupt outputs -/

/-- From `s` to `t` the levels of both lines, `nmiPrev` and both chips' interrupt outputs stay. -/
structure LevelsKept (s t : State) : Prop where
  irqLevel : t.irqLevel = s.irqLevel
  nmiLevel : t.nmiLevel = s.nmiLevel
  nmiPrev : t.nmiPrev = s.nmiPrev
  ir : ∀ k, (t.cia k).ir = (s.cia k).ir

/-- An update of none of these fields. -/
theorem LevelsKept.of_fields {s t : State} (irqLevel : t.irqLevel = s.irqLevel := by rfl)
    (nmiLevel : t.nmiLevel = s.nmiLevel := by rfl) (nmiPrev : t.nmiPrev = s.nmiPrev := by rfl)
    (cia1 : t.cia1 = s.cia1 := by rfl) (cia2 : t.cia2 = s.cia2 := by rfl) : LevelsKept s t :=
  ⟨irqLevel, nmiLevel, nmiPrev, fun k => by rw [cia_congr cia1 cia2 k]⟩

theorem LevelsKept.trans {s t r : State} (h : LevelsKept s t) (h' : LevelsKept t r) : LevelsKept s r where
  irqLevel := h'.irqLevel.trans h.irqLevel
  nmiLevel := h'.nmiLevel.trans h.nmiLevel
  nmiPrev := h'.nmiPrev.trans h.nmiPrev
  ir k := (h'.ir k).trans (h.ir k)

theorem LevelsKept.setCia {s : State} {c : Chip} {x : Cia} (hx : x.ir = (s.cia c).ir) :
    LevelsKept s (s.setCia c x) where
  irqLevel := s.setCia_irqLevel c x
  nmiLevel := s.setCia_nmiLevel c x
  nmiPrev := s.setCia_nmiPrev c x
  ir k := by
    rw [State.cia_setCia_if]
    split <;> simp [*]

theorem LevelsKept.setTick (s : State) (c : Chip) (u : TimerId) (h : Option Handle) :
    LevelsKept s (s.setTick c u h) :=
  .setCia (Cia.setTimer_ir _ u _)

theorem LevelsKept.updateSide (s : State) : LevelsKept s (updateSide s) := by
  obtain ⟨b, o, h⟩ := updateSide_eq s
  rw [h]
  exact .of_fields

theorem LevelsKept.portWrite {s : State} {c : Chip} {x : Cia} (p : TimerId) (hx : x.ir = (s.cia c).ir) :
    LevelsKept s (afterPortWrite c p (s.setCia c x)) := by
  unfold afterPortWrite
  split
  case h_1 => exact (LevelsKept.setCia hx).trans (.updateSide _)
  all_goals exact .setCia hx

theorem writeTimerHigh_ir (x : Cia) (u : TimerId) (v : Byte) : (writeTimerHigh x u v).ir = x.ir := by
  unfold writeTimerHigh
  dsimp only
  split <;> simp [Cia.loadCounter, Cia.setCounter, Cia.setLatch]

/-- `Reconcile` is about the queue and the ticks (42_timer.md R243). -/
theorem LevelsKept.reconcile (c : Chip) (u : TimerId) (s : State) :
    LevelsKept s (settled (reconcile c u s)) := by
  rcases reconcile_cases c u s with ⟨h, -⟩ | ⟨k, -, -, h⟩ | ⟨-, -, ⟨-, h⟩ | ⟨-, h⟩ | ⟨-, -, h⟩⟩ <;> rw [h]
  · exact .of_fields
  · exact LevelsKept.trans (t := s.dequeue k) .of_fields (.setTick _ c u none)
  · exact .of_fields
  · exact .of_fields
  · exact LevelsKept.trans (t := { s with queue := _, nextSeq := _ }) .of_fields (.setTick _ c u _)

theorem LevelsKept.writeControl (c : Chip) (u : TimerId) (v : Byte) (s : State) :
    LevelsKept s (settled (writeControl c u v s)) := by
  obtain ⟨x, hx, -, -, -, -, -, -, hir, -⟩ := writeControl_split c u v s
  rw [hx]
  exact (LevelsKept.setCia hir).trans (.reconcile c u _)

theorem LevelsMatched.kept {s t : State} (hm : LevelsMatched s) (hk : LevelsKept s t) : LevelsMatched t := by
  have h1 : t.cia1.ir = s.cia1.ir := hk.ir .cia1
  have h2 : t.cia2.ir = s.cia2.ir := hk.ir .cia2
  unfold LevelsMatched
  rw [hk.irqLevel, hk.nmiLevel, hk.nmiPrev, h1, h2]
  exact hm

/-! ## Updates of a level -/

/-- Another source of a line: the chips' source stays, and an NMI level goes with its OR (43_interrupts.md R292,
R293). -/
theorem LevelsMatched.assertLine {s : State} (hm : LevelsMatched s) (l : Line) {src : BitVec 4} (hsrc : src ≠ 0#4)
    (b : Bool) : LevelsMatched (s.assertLine l src b) := by
  obtain ⟨h1, h2, h3⟩ := hm
  have keep : ∀ lv, levelOf (setLevel lv src b) 0#4 = levelOf lv 0#4 := fun lv => by
    rw [levelOf_setLevel, if_neg hsrc.symm]
  cases l
  · exact ⟨(keep _).trans h1, h2, h3⟩
  · exact ⟨h1, (keep _).trans h2, rfl⟩

/-- A chip's output and source 0 of its line change together (42_timer.md R266). -/
theorem LevelsMatched.raiseInterrupt {s : State} (hm : LevelsMatched s) {c : Chip} {x : Cia} {b : Bool}
    (hx : x.ir = b) : LevelsMatched ((s.setCia c x).raiseInterrupt c b) := by
  obtain ⟨h1, h2, h3⟩ := hm
  have set : ∀ lv, levelOf (setLevel lv 0#4 b) 0#4 = x.ir := fun lv => by
    rw [levelOf_setLevel, if_pos rfl, hx]
  cases c
  · exact ⟨set _, h2, h3⟩
  · exact ⟨h1, set _, rfl⟩

theorem LevelsMatched.clearIcr {s : State} (hm : LevelsMatched s) (c : Chip) : LevelsMatched (clearIcr c s) := by
  unfold Machine.clearIcr
  dsimp only
  split
  · exact hm.raiseInterrupt rfl
  · exact hm.kept (.setCia rfl)

theorem LevelsMatched.writeMask {s : State} (hm : LevelsMatched s) (c : Chip) (v : Byte) :
    LevelsMatched (writeMask c v s) := by
  unfold Machine.writeMask
  dsimp only
  split
  · exact hm.raiseInterrupt rfl
  · exact hm.kept (.setCia rfl)

/-! ## Ticks -/

theorem LevelsMatched.expireUnit {c : Chip} {u : TimerId} {s t : State} (h : expireUnit c u s = .ok t)
    (hm : LevelsMatched s) : LevelsMatched t := by
  obtain ⟨x, q, rfl, -, hir, -⟩ := expireUnit_split h
  have hr : LevelsMatched { s.setCia c x with queue := q } :=
    (hm.kept (.setCia hir)).kept .of_fields
  unfold expireInterrupt
  dsimp only
  split
  · exact hr.raiseInterrupt rfl
  · exact hr

theorem LevelsKept.countDown (c : Chip) (u : TimerId) (s : State) : LevelsKept s (countDown c u s) :=
  .setCia (Cia.setTimer_ir _ u _)

theorem LevelsMatched.tick {c : Chip} {u : TimerId} {s t : State} (h : tick c u s = .ok t) (hm : LevelsMatched s) :
    LevelsMatched t := by
  rcases tick_cases h with rfl | h | ⟨-, r, hr, -, rfl | h⟩
  · exact hm.kept (.countDown c u s)
  · exact hm.expireUnit h
  · exact (hm.expireUnit hr).kept (.countDown c .b r)
  · exact (hm.expireUnit hr).expireUnit h

theorem LevelsMatched.fireTick {s : State} (hm : LevelsMatched s) (c : Chip) (u : TimerId) :
    LevelsMatched (settled (fireTick c u s)) := by
  obtain ⟨t, ht, h⟩ := settled_fireTick c u s
  rw [h]
  exact ((hm.kept (.setTick s c u none)).tick ht).kept (.reconcile c u t)

/-! ## Every step -/

theorem LevelsMatched.sweepStep {s : State} (hm : LevelsMatched s) (rem : BitVec 64) :
    LevelsMatched (sweepStep rem s) := by
  obtain ⟨-, h⟩ | ⟨e, -, -, -, ⟨tag, -, h⟩ | ⟨c, u, -, h⟩⟩ := sweepStep_cases rem s <;> rw [h]
  · unfold endSweep
    split <;> exact hm.kept .of_fields
  · exact hm.kept .of_fields
  · exact (hm.kept (t := s.dequeue e.seq) .of_fields).fireTick c u

/-- An instruction keeps the levels and the outputs, changes a chip's source with its output, or asserts the
source that an `ASSERT` names. -/
theorem Effect.levelsMatched {i : Instr} {s t : State} (he : Effect i s t)
    (hi : ∀ l b, i ≠ .assert l 0#4 b) (hm : LevelsMatched s) : LevelsMatched t := by
  cases he
  case schedule hq => obtain ⟨_, rfl⟩ := enqueue_ok hq; exact hm.kept .of_fields
  case scheduleStop hq => obtain ⟨_, rfl⟩ := enqueue_error hq; exact hm.kept .of_fields
  case assert l src b ha =>
    have hsrc : src ≠ 0#4 := by rintro rfl; exact hi l b ha
    exact (hm.assertLine l hsrc b).kept .of_fields
  case ciaPort c p v => exact (hm.kept (.portWrite p (Cia.setPortData_ir _ p v))).kept .of_fields
  case ciaDir c p v => exact (hm.kept (.portWrite p (Cia.setPortDir_ir _ p v))).kept .of_fields
  case ciaLow c u v => exact (hm.kept (.setCia (Cia.setTimer_ir _ u _))).kept .of_fields
  case ciaHigh c u v => exact (hm.kept (.setCia (writeTimerHigh_ir _ u v))).kept .of_fields
  case icrRead c => exact (hm.clearIcr c).kept .of_fields
  case icrWrite c v => exact (hm.writeMask c v).kept .of_fields
  case control c u v r _ hw =>
    have hk := LevelsKept.writeControl c u v s
    rw [hw] at hk
    exact (hm.kept hk).kept .of_fields
  case controlStop c u v _ hw =>
    have hk := LevelsKept.writeControl c u v s
    rw [hw] at hk
    exact hm.kept hk
  all_goals exact hm.kept .of_fields

/-- Settles O59: an output changes only together with its source, an NMI level only together with `nmiPrev`, and the
decoder admits no `ASSERT` of source 0 (30_encoding.md R122). -/
theorem levelsStayMatched : Obligations.LevelsStayMatched := by
  intro s t hm h
  obtain ⟨-, ⟨rem, -, rfl⟩ | ⟨-, rfl | ⟨f, -, rfl⟩ | ⟨f, i, -, hd, hx⟩⟩⟩ := step_cases h
  · exact hm.sweepStep rem
  · exact hm
  · exact hm.kept .of_fields
  · have hwf : i.wf = true := (decodeWords_wf hd).1
    have he : exec i { s with commands := f.rest } = .next t :=
      (targetRowIsTheAccess i { s with commands := f.rest }).symm.trans hx
    refine (exec_effect he).levelsMatched ?_ (hm.kept .of_fields)
    rintro l b rfl
    cases hwf

end Sys2Proof.Machine
end

section
/-! PROOFS. The timer chips' registers but the interrupt control and control registers: port, counter and latch
(42_timer.md R231 to R239, R268), and the registers without behaviour (R262). -/

namespace Sys2Proof

/-! ## Which of two registers an offset of a row is (42_timer.md R230) -/

theorem portSel_of_data {a : Addr} (h : a.toNat % 16 < 2) : portSel a = if a.toNat % 16 = 0 then .a else .b := by
  rw [portSel_eq]
  exact if_congr (by omega) rfl rfl

theorem portSel_of_dir {a : Addr} (h : a.toNat % 16 = 2 ∨ a.toNat % 16 = 3) :
    portSel a = if a.toNat % 16 = 2 then .a else .b := by
  rw [portSel_eq]
  exact if_congr (by omega) rfl rfl

theorem timerSel_of_iff {a : Addr} {p : Prop} [Decidable p] (h : a.toNat / 2 % 2 = 0 ↔ p) :
    timerSel a = if p then .a else .b :=
  (timerSel_eq a).trans (if_congr h rfl rfl)

/-! ## Bytes of a 16-bit register as numbers (20_memory.md R72) -/

theorem lowByte_eq (v : BitVec 16) : lowByte v = BitVec.ofNat 8 (v.toNat % 256) := by
  apply BitVec.eq_of_toNat_eq
  simp [lowByte]

theorem highByte_toNat (v : BitVec 16) : (highByte v).toNat = v.toNat / 256 := by
  have := v.isLt
  simp [highByte, Nat.shiftRight_eq_div_pow]
  omega

theorem highByte_eq (v : BitVec 16) : highByte v = BitVec.ofNat 8 (v.toNat / 256) := by
  rw [← highByte_toNat, BitVec.ofNat_toNat, BitVec.setWidth_eq]

/-- A register is its high byte and its low byte. -/
theorem toNat_of_bytes (v : BitVec 16) : v.toNat = (highByte v).toNat * 256 + (lowByte v).toNat := by
  have := v.isLt
  rw [highByte_toNat, lowByte_eq, BitVec.toNat_ofNat]
  omega

theorem withLowByte_toNat (v : BitVec 16) (b : Byte) :
    (withLowByte v b).toNat = v.toNat / 256 * 256 + b.toNat := by
  rw [toNat_of_bytes, highByte_withLowByte, lowByte_withLowByte, highByte_toNat]

theorem withHighByte_toNat (v : BitVec 16) (b : Byte) :
    (withHighByte v b).toNat = b.toNat * 256 + v.toNat % 256 := by
  rw [toNat_of_bytes, highByte_withHighByte, lowByte_withHighByte, lowByte_eq, BitVec.toNat_ofNat]
  omega

end Sys2Proof

namespace Sys2Proof.Machine

/-! ## A chip's update and the response, as one update -/

theorem State.setCia_emit (s : State) (c : Chip) (x : Cia) (o : Output) :
    (s.setCia c x).emit o = { s.setCia c x with output := s.output ++ [o] } := by
  cases c <;> rfl

/-! ## Reads (R231, R232, R235, R236, R239) -/

/-- Settles O38: each row answers the register its offset selects. -/
theorem timerRegisterReads : Obligations.TimerRegisterReads := by
  refine fun s c a => ⟨fun hwf => ?_, fun hwf => ?_, fun hwf => ?_, fun hwf => ⟨?_, fun hl => ?_⟩⟩
  · rw [exec, execReadCiaDdr, portSel_of_dir (ciaDdr_offset hwf)]
    split <;> rfl
  · have ho := ciaTlo_offset hwf
    rw [exec, execReadCiaTlo, lowByte_eq, timerSel_of_iff (p := a.toNat % 16 = 4) (by omega)]
    split <;> rfl
  · have ho := ciaThi_offset hwf
    rw [exec, execReadCiaThi, highByte_eq, timerSel_of_iff (p := a.toNat % 16 = 5) (by omega)]
    split <;> rfl
  · have ho := ciaCr_offset hwf
    rw [exec, execReadCiaCr, controlSel_of_offset (by omega)]
    split <;> rfl
  · obtain ⟨⟨ha, -⟩, ⟨hb, -⟩, -⟩ := hl c
    exact ⟨ha, hb⟩

/-- Settles O39: the byte read is the lines of the port that the offset selects. -/
theorem timerPortReads : Obligations.TimerPortReads := by
  intro s c a hwf
  refine ⟨_, fun i hi => ?_, rfl⟩
  rw [getLsbD_mixLines _ _ _ hi, portSel_of_data (ciaPr_offset hwf)]
  split <;> rfl

/-! ## Writes of the ports (R233, R234, R268) -/

/-- The side signal is port B line 4, and 1 where that is an input (R268). -/
theorem sideLevel_eq (x : Cia) : sideLevel x = if x.ddrb.getLsbD 4 then x.prb.getLsbD 4 else true := by
  simp only [sideLevel, BitVec.getLsbD_or, BitVec.getLsbD_not]
  cases x.ddrb.getLsbD 4 <;> simp

/-- The side signal follows its line, and `SIDE` is emitted when that changes it (R268). -/
theorem updateSide_of_level {s : State} {new : Bool} (h : new = sideLevel s.cia1) :
    updateSide s = { s with
      side := new, output := s.output ++ (if new = s.side then [] else [.side new]) } := by
  subst h
  unfold updateSide
  dsimp only
  by_cases hs : sideLevel s.cia1 = s.side
  · rw [if_pos hs, if_pos hs, List.append_nil, hs]
  · rw [if_neg hs, if_neg hs]
    rfl

/-- Settles O40: the offset selects the register, and a write of CIA1's port B is followed by its side signal. -/
theorem timerPortWrites : Obligations.TimerPortWrites := by
  refine fun s a v => ⟨fun hwf => ?_, fun hwf => ?_, fun hwf => ⟨fun ho => ?_, fun ho new hnew => ?_⟩,
    fun hwf => ⟨fun ho => ?_, fun ho new hnew => ?_⟩⟩
  · rw [exec, execWriteCiaPr, portSel_of_data (ciaPr_offset hwf)]
    split <;> rfl
  · rw [exec, execWriteCiaDdr, portSel_of_dir (ciaDdr_offset hwf)]
    split <;> rfl
  · rw [exec, execWriteCiaPr, portSel_of_data (ciaPr_offset hwf), if_pos ho]
    rfl
  · have hlevel : new = sideLevel { s.cia1 with prb := v } := by rw [sideLevel_eq, hnew]
    rw [exec, execWriteCiaPr, portSel_of_data (ciaPr_offset hwf), if_neg (by omega)]
    exact congrArg (fun r => Host.Outcome.next (r.emit .writeAck))
      (updateSide_of_level (s := { s with cia1 := { s.cia1 with prb := v } }) hlevel)
  · rw [exec, execWriteCiaDdr, portSel_of_dir (ciaDdr_offset hwf), if_pos ho]
    rfl
  · have hlevel : new = sideLevel { s.cia1 with ddrb := v } := by rw [sideLevel_eq, hnew]
    rw [exec, execWriteCiaDdr, portSel_of_dir (ciaDdr_offset hwf), if_neg (by omega)]
    exact congrArg (fun r => Host.Outcome.next (r.emit .writeAck))
      (updateSide_of_level (s := { s with cia1 := { s.cia1 with ddrb := v } }) hlevel)

/-! ## Writes of the latch (R237, R238) -/

/-- A write of a high byte is one update of its unit (R238). -/
theorem writeTimerHigh_eq (x : Cia) (u : TimerId) (v : Byte) :
    writeTimerHigh x u v = x.setTimer u { x.timer u with
      latch := withHighByte (x.timer u).latch v,
      counter := if (x.control u).getLsbD 0 then (x.timer u).counter else withHighByte (x.timer u).latch v } := by
  unfold writeTimerHigh
  dsimp only
  by_cases hs : crStart (x.control u) = true
  · rw [if_pos hs, if_pos (show (x.control u).getLsbD 0 = true from hs)]
    rfl
  · rw [if_neg hs, if_neg (show ¬ (x.control u).getLsbD 0 = true from hs)]
    simp only [Cia.loadCounter, Cia.setCounter, Cia.setLatch, Cia.timer_setTimer, Cia.setTimer_setTimer]

/-- Settles O41: each byte written is that byte of the latch. -/
theorem timerLatchWrites : Obligations.TimerLatchWrites := by
  rintro s c a v u rfl
  refine ⟨fun hwf => ⟨withLowByte ((s.cia c).timer _).latch v, withLowByte_toNat _ v, ?_⟩,
    fun hwf => ⟨withHighByte ((s.cia c).timer _).latch v, withHighByte_toNat _ v, ?_⟩⟩
  · have ho := ciaTlo_offset hwf
    rw [exec, execWriteCiaTlo, timerSel_of_iff (p := a.toNat % 16 < 6) (by omega), State.setCia_emit]
    rfl
  · have ho := ciaThi_offset hwf
    rw [exec, execWriteCiaThi, timerSel_of_iff (p := a.toNat % 16 < 6) (by omega), writeTimerHigh_eq,
      State.setCia_emit]

/-! ## The registers without behaviour (R262) -/

theorem regKind_refused {a : Addr} (h : refusedOffset a) :
    regKind (a.toNat % 16) = .tod ∨ regKind (a.toNat % 16) = .serial := by
  obtain ⟨hlo, hhi⟩ := h
  by_cases ho : a.toNat % 16 = 12
  · exact .inr (regKind_of_at ho)
  · exact .inl (regKind_of_at ⟨hlo, by omega⟩)

theorem exec_ciaReadRow_refused {a : Addr} (h : refusedOffset a) (c : Chip) (s : State) :
    exec (ciaReadRow c a) s = .next (s.raiseRefusal .unmodelledReg) := by
  rw [ciaReadRow_eq]
  obtain hk | hk := regKind_refused h <;> rw [hk] <;> rfl

theorem exec_ciaWriteRow_refused {a : Addr} (h : refusedOffset a) (c : Chip) (v : Byte) (s : State) :
    exec (ciaWriteRow c a v) s = .next (s.raiseRefusal .unmodelledReg) := by
  rw [ciaWriteRow_eq]
  obtain hk | hk := regKind_refused h <;> rw [hk] <;> rfl

theorem readRow_chipBank (c : Chip) (a : Addr) : readRow (chipBank c) a = ciaReadRow c a := by cases c <;> rfl

theorem writeRow_chipBank (c : Chip) (a : Addr) (v : Byte) : writeRow (chipBank c) a v = ciaWriteRow c a v := by
  cases c <;> rfl

/-- Settles O45: a `READ` or `WRITE` of a refused offset reaches one of the four rows, which refuse. -/
theorem unmodelledRegistersRefuse : Obligations.UnmodelledRegistersRefuse := by
  rintro s c a v i (hi | ⟨ho, ⟨hb, rfl⟩ | ⟨hb, rfl⟩⟩)
  · simp only [List.mem_cons, List.not_mem_nil, or_false] at hi
    obtain rfl | rfl | rfl | rfl := hi <;> rfl
  · rw [← exec_readRow hb, readRow_chipBank]
    exact exec_ciaReadRow_refused ho c s
  · rw [← exec_writeRow v hb, writeRow_chipBank]
    exact exec_ciaWriteRow_refused ho c v s

end Sys2Proof.Machine
end

section
/-! PROOFS. The interrupt control register of a timer chip (42_timer.md R250, R251, R253, R266). -/

namespace Sys2Proof.Machine

/-- A chip's update that calls its Environment, and then the response, as one update. -/
theorem State.raiseInterrupt_emit (s : State) (c : Chip) (x : Cia) (b : Bool) (o : Output) :
    ((s.setCia c x).raiseInterrupt c b).emit o =
      { { s.setCia c x with envCalls := s.envCalls ++ [(c, b)] }.assertLine (chipLine c) 0#4 b with
        output := s.output ++ [o] } := by
  cases c <;> rfl

/-! ## The read (R250, R253) -/

theorem icrByte_toNat (flags : BitVec 5) (ir : Bool) :
    (icrByte flags ir).toNat = flags.toNat + (if ir then 128 else 0) := by
  revert flags ir
  decide

theorem clearIcr_asserted {c : Chip} {s : State} (h : (s.cia c).ir = true) :
    clearIcr c s = (s.setCia c { s.cia c with flags := 0#5, ir := false }).raiseInterrupt c false :=
  if_pos h

theorem clearIcr_idle {c : Chip} {s : State} (h : (s.cia c).ir = false) :
    clearIcr c s = s.setCia c { s.cia c with flags := 0#5, ir := false } := by
  rw [← h]
  exact if_neg (by simp [h])

theorem clearIcr_cia (c : Chip) (s : State) : (clearIcr c s).cia c = { s.cia c with flags := 0#5, ir := false } := by
  cases h : (s.cia c).ir
  · rw [clearIcr_idle h, State.cia_setCia]
  · rw [clearIcr_asserted h, State.raiseInterrupt_cia, State.cia_setCia]

/-- With both clear there is nothing to clear. -/
theorem clearIcr_of_clear {c : Chip} {s : State} (hf : (s.cia c).flags = 0#5) (hir : (s.cia c).ir = false) :
    clearIcr c s = s := by
  rw [clearIcr_idle hir, ← hf, ← hir]
  exact s.setCia_cia c

/-- A read that finds both clear answers 0 and changes nothing (R253). -/
theorem exec_readCiaIcr_of_clear {c : Chip} {s : State} (hf : (s.cia c).flags = 0#5) (hir : (s.cia c).ir = false)
    (a : Addr) : exec (.readCiaIcr c a) s = .next (s.emit (.readByte 0x00#8)) := by
  have hb : icrByte 0#5 false = 0x00#8 := by decide
  rw [exec, execReadCiaIcr, clearIcr_of_clear hf hir, hf, hir, hb]

/-- Settles O43: the read clears what it answers, so that a second one answers 0. -/
theorem icrReadTestsAndClears : Obligations.IcrReadTestsAndClears := by
  refine ⟨fun s c a => ⟨_, icrByte_toNat (s.cia c).flags (s.cia c).ir, ?_⟩, fun s t t' c a a' ht ht' => ?_⟩
  · rw [exec, execReadCiaIcr]
    cases h : (s.cia c).ir
    · rw [clearIcr_idle h, State.setCia_emit]
      rfl
    · rw [clearIcr_asserted h, State.raiseInterrupt_emit]
      rfl
  · cases ht
    have hx : ((clearIcr c s).emit (.readByte (icrByte (s.cia c).flags (s.cia c).ir))).cia c = _ := clearIcr_cia c s
    exact Host.Outcome.next.inj (ht'.symm.trans (exec_readCiaIcr_of_clear (by rw [hx]) (by rw [hx]) a'))

/-! ## The write (R251) -/

/-- A selected mask bit becomes bit 7, and any other stays (R251). -/
theorem getLsbD_maskAfterWrite (mask : BitVec 5) (v : Byte) {i : Nat} (hi : i < 5) :
    (maskAfterWrite mask v).getLsbD i = if v.getLsbD i then v.getLsbD 7 else mask.getLsbD i := by
  have hsel : (v.extractLsb' 0 5).getLsbD i = v.getLsbD i := by simp [hi]
  unfold maskAfterWrite
  cases h7 : v.getLsbD 7
  · rw [if_neg (by simp), BitVec.getLsbD_and, BitVec.getLsbD_not, hsel]
    cases v.getLsbD i <;> simp [hi]
  · rw [if_pos rfl, BitVec.getLsbD_or, hsel]
    cases v.getLsbD i <;> simp

/-- Settles O44: the new mask, and the output asserted at once where it enables a set flag. -/
theorem icrWriteSetsTheMask : Obligations.IcrWriteSetsTheMask := by
  refine fun s c a v => ⟨_, fun i hi => getLsbD_maskAfterWrite (s.cia c).mask v hi, ?_⟩
  rw [exec, execWriteCiaIcr, writeMask]
  dsimp only
  split
  · rw [State.raiseInterrupt_emit]
    rfl
  · rw [State.setCia_emit]

end Sys2Proof.Machine
end

section
/-! PROOFS. `Reconcile` where it queues a unit's next tick (42_timer.md R243): at a write of a control register
(R240 to R242), and after the tick of a fired event (R247). -/

namespace Sys2Proof.Machine

/-! ## A clocked unit without a tick (R243) -/

section
variable {c : Chip} {u : TimerId} {s : State} (hc : clocked (s.cia c) u = true) (ht : ((s.cia c).timer u).tick = none)
include hc ht

theorem reconcile_cycleOverflow (h : maxU64 < s.cycle.toNat + timerRate s.cfg c) :
    reconcile c u s = .error (s.raiseFault .cycleOverflow) := by
  rw [reconcile_start hc ht, enqueue_cycleOverflow h]

theorem reconcile_seqOverflow (h : s.cycle.toNat + timerRate s.cfg c ≤ maxU64) (hn : s.nextSeq.toNat = maxU64) :
    reconcile c u s = .error (s.raiseFault .seqOverflow) := by
  rw [reconcile_start hc ht, enqueue_seqOverflow h hn]

/-- The next tick is queued `TIMER_RATE` cycles later with the next handle, which the unit keeps. -/
theorem reconcile_queues (h : s.cycle.toNat + timerRate s.cfg c ≤ maxU64) (hn : s.nextSeq.toNat ≠ maxU64) :
    reconcile c u s = .ok { s.setCia c ((s.cia c).setTick u (some s.nextSeq)) with
      queue := s.queue ++
        [⟨BitVec.ofNat 64 (s.cycle.toNat + timerRate s.cfg c), s.cfg.timerPhase, s.nextSeq, .tick c u⟩]
      nextSeq := s.nextSeq + 1#64 } := by
  rw [reconcile_start hc ht, enqueue_fits h hn]
  cases c <;> rfl

end

/-! ## A write of a control register (R240 to R243) -/

theorem crRunsOnCnt_iff (v : Byte) : crRunsOnCnt v = true ↔ v.getLsbD 0 = true ∧ v.getLsbD 5 = true := by
  rw [crRunsOnCnt, Bool.and_eq_true]

/-- The chip after a control register write, before `Reconcile`: the force load (R241) and the stored value (R240). -/
def Cia.controlWritten (x : Cia) (u : TimerId) (v : Byte) : Cia :=
  (x.setTimer u { x.timer u with
    counter := if v.getLsbD 4 then (x.timer u).latch else (x.timer u).counter }).setControl u (v &&& 0xEF#8)

theorem writeControl_eq (c : Chip) (u : TimerId) (v : Byte) (s : State) :
    writeControl c u v s = reconcile c u (s.setCia c ((s.cia c).controlWritten u v)) := by
  unfold writeControl Cia.controlWritten
  dsimp only
  by_cases h : crLoad v = true
  · rw [if_pos h, if_pos (show v.getLsbD 4 = true from h)]
    cases u <;> rfl
  · rw [if_neg h, if_neg (show ¬ v.getLsbD 4 = true from h)]
    cases u <;> rfl

theorem clocked_controlWritten (x : Cia) (u : TimerId) (v : Byte) :
    clocked (x.controlWritten u v) u = true ↔ v.getLsbD 0 = true ∧ (u = .b → v.toNat / 32 % 4 = 0) :=
  clocked_setControl_stored _ u v

theorem controlWritten_tick (x : Cia) (u : TimerId) (v : Byte) :
    ((x.controlWritten u v).timer u).tick = (x.timer u).tick := by
  simp [Cia.controlWritten]

theorem exec_writeCiaCr_refused {v : Byte} (hv : crRunsOnCnt v = true) (c : Chip) (a : Addr) (s : State) :
    exec (.writeCiaCr c a v) s = .next (s.raiseRefusal .cntMode) :=
  if_pos hv

/-- A write that is not refused answers once `Reconcile` has not stopped. -/
theorem exec_writeCiaCr_ok {c : Chip} {a : Addr} {v : Byte} {s t : State} (hv : crRunsOnCnt v = false)
    (ht : reconcile c (controlSel a) (s.setCia c ((s.cia c).controlWritten (controlSel a) v)) = .ok t) :
    exec (.writeCiaCr c a v) s = .next (t.emit .writeAck) :=
  execWriteCiaCr_ok hv ((writeControl_eq c _ v s).trans ht)

theorem exec_writeCiaCr_error {c : Chip} {a : Addr} {v : Byte} {s t : State} (hv : crRunsOnCnt v = false)
    (ht : reconcile c (controlSel a) (s.setCia c ((s.cia c).controlWritten (controlSel a) v)) = .error t) :
    exec (.writeCiaCr c a v) s = .next t := by
  rw [exec, execWriteCiaCr, hv, writeControl_eq, ht]
  rfl

theorem State.setCia_raiseFault (s : State) (c : Chip) (x : Cia) (f : FaultCode) :
    (s.setCia c x).raiseFault f =
      { s.setCia c x with fault := some f, output := s.output ++ [.stop f.code] } := by
  cases c <;> rfl

/-- Settles O42: the refusal, and the cases of `Reconcile` on the chip as written. -/
theorem controlRegisterWrite : Obligations.ControlRegisterWrite := by
  intro s c a v u hwf hu
  have ho := ciaCr_offset hwf
  obtain rfl : controlSel a = u := (controlSel_of_offset (by omega)).trans hu.symm
  clear hu
  intro loaded written running refused due
  have hrunning : clocked ((s.setCia c written).cia c) (controlSel a) = true ↔ running := by
    rw [State.cia_setCia]
    exact clocked_controlWritten (s.cia c) _ v
  have hidle : ¬ running → clocked ((s.setCia c written).cia c) (controlSel a) = false := fun hr =>
    (Bool.not_eq_true _).mp (mt hrunning.1 hr)
  have htick : (((s.setCia c written).cia c).timer (controlSel a)).tick = ((s.cia c).timer (controlSel a)).tick := by
    rw [State.cia_setCia]
    exact controlWritten_tick (s.cia c) _ v
  have hcycle : ∀ x, (s.setCia c x).cycle.toNat + timerRate (s.setCia c x).cfg c = due := by simp [due]
  have hnext : ∀ x, (s.setCia c x).nextSeq = s.nextSeq := s.setCia_nextSeq c
  have hcnt : ¬ refused → crRunsOnCnt v = false := fun hr => (Bool.not_eq_true _).mp (mt (crRunsOnCnt_iff v).1 hr)
  refine ⟨fun hr => ?_, fun hr hrun h ht => ?_, fun hr hrun ht => ⟨fun hc => ?_, fun hc hn => ?_, fun hc hn => ?_⟩,
    fun hr hrun ht => ?_, fun hr hrun h ht => ?_⟩
  · exact exec_writeCiaCr_refused ((crRunsOnCnt_iff v).2 hr) c a s
  · rw [exec_writeCiaCr_ok (hcnt hr) (reconcile_keep_clocked (hrunning.2 hrun) (htick.trans ht)), State.setCia_emit]
    rfl
  · rw [exec_writeCiaCr_error (hcnt hr) (reconcile_cycleOverflow (hrunning.2 hrun) (htick.trans ht) (by rwa [hcycle])),
      State.setCia_raiseFault]
    rfl
  · rw [exec_writeCiaCr_error (hcnt hr) (reconcile_seqOverflow (hrunning.2 hrun) (htick.trans ht) (by rwa [hcycle])
      (by rwa [hnext])), State.setCia_raiseFault]
    rfl
  · have hn' : s.nextSeq.toNat ≠ maxU64 := Nat.ne_of_lt hn
    refine ⟨_, _, toNat_ofNat_of_le hc, nextSeq_succ hn', ?_⟩
    rw [exec_writeCiaCr_ok (hcnt hr) (reconcile_queues (hrunning.2 hrun) (htick.trans ht) (by rwa [hcycle])
      (by rwa [hnext]))]
    cases c <;> rfl
  · rw [exec_writeCiaCr_ok (hcnt hr) (reconcile_keep_idle (hidle hrun) (htick.trans ht)), State.setCia_emit]
    rfl
  · rw [exec_writeCiaCr_ok (hcnt hr) (reconcile_stop (hidle hrun) (htick.trans ht))]
    cases c <;> rfl

/-! ## The firing of a tick event (R247) -/

/-- A tick queues none: a unit without a tick event has none after a tick. -/
theorem tick_tick_none {c : Chip} {u : TimerId} {s t : State} (h : tick c u s = .ok t)
    (ht : ((s.cia c).timer u).tick = none) : ((t.cia c).timer u).tick = none := by
  have count : ∀ {r : State} v, ((r.cia c).timer u).tick = none → (((countDown c v r).cia c).timer u).tick = none :=
    fun v hr => ((countDown_ticksKept (fun _ _ => True) c v _).tick c u).trans hr
  have expire : ∀ {r q : State}, expireUnit c u r = .ok q → ((r.cia c).timer u).tick = none →
      ((q.cia c).timer u).tick = none := by
    intro r q hq hr
    obtain ⟨-, ⟨hu, -⟩ | ⟨hu, -⟩⟩ := expireUnit_ticks hq
    · exact hu.trans hr
    · exact hu
  rcases tick_cases h with rfl | h | ⟨rfl, r, hr, -, rfl | h⟩
  · exact count u ht
  · exact expire h ht
  · exact count .b (expire hr ht)
  · rw [((expireUnit_ticks h).1 .a nofun).1]
    exact expire hr ht

theorem fireTick_of_tick {c : Chip} {u : TimerId} {s t : State} (h : tick c u (s.setTick c u none) = .ok t) :
    fireTick c u s = reconcile c u t := by
  rw [fireTick, h]

/-- Settles O48: after the tick the unit has no tick event, and `Reconcile` gives it one where it is clocked. -/
theorem tickEventRepeats : Obligations.TickEventRepeats := by
  intro s t c u h
  have htick : ((t.cia c).timer u).tick = none := tick_tick_none h (by rw [State.cia_setCia, Cia.timer_setTimer])
  have hframe := (CountFrame.setTick c u s none).trans (tick_frame h)
  have hnext : t.nextSeq = s.nextSeq := (tick_quiet h).nextSeq.trans (s.setCia_nextSeq c _)
  intro running
  have hrunning : clocked (t.cia c) u = true ↔ running := clocked_iff (t.cia c) u
  rw [fireTick_of_tick h, ← hframe.cfg, ← hframe.cycle, ← hnext]
  refine ⟨fun hr => ?_, fun hr hc hn => ?_, fun hr hc => ?_, fun hr hc hn => ?_⟩
  · exact reconcile_keep_idle ((Bool.not_eq_true _).mp (mt hrunning.1 hr)) htick
  · have hn' : t.nextSeq.toNat ≠ maxU64 := Nat.ne_of_lt hn
    exact ⟨_, _, toNat_ofNat_of_le hc, nextSeq_succ hn', reconcile_queues (hrunning.2 hr) htick hc hn'⟩
  · exact reconcile_cycleOverflow (hrunning.2 hr) htick hc
  · exact reconcile_seqOverflow (hrunning.2 hr) htick hc hn

end Sys2Proof.Machine
end

section
/-! PROOFS. Counting: ticks before an expiry, an expiry and its cascade, and the period of a continuous unit
(42_timer.md R246, R248, R249, R254). -/

namespace Sys2Proof.Machine

/-! ## Ticks in a row, and counting down (R246) -/

theorem tickTimes_add {c : Chip} {u : TimerId} {m : Nat} {s t : State} (h : tickTimes c u m s = .ok t) (n : Nat) :
    tickTimes c u (m + n) s = tickTimes c u n t := by
  induction m generalizing s with
  | zero =>
    cases h
    rw [Nat.zero_add]
  | succ m ih =>
    obtain ⟨r, hr⟩ := tick_ok c u s
    rw [tickTimes, hr] at h
    rw [Nat.succ_add, tickTimes, hr]
    exact ih h

theorem tickTimes_one {c : Chip} {u : TimerId} {s t : State} (h : tick c u s = .ok t) : tickTimes c u 1 s = .ok t := by
  rw [tickTimes, h]
  rfl

@[simp] theorem Cia.timer_setCounter (x : Cia) (u : TimerId) (n : BitVec 16) :
    (x.setCounter u n).timer u = { x.timer u with counter := n } :=
  x.timer_setTimer u _

@[simp] theorem Cia.setCounter_setCounter (x : Cia) (u : TimerId) (n m : BitVec 16) :
    (x.setCounter u n).setCounter u m = x.setCounter u m := by
  cases u <;> rfl

@[simp] theorem Cia.setCounter_counter (x : Cia) (u : TimerId) : x.setCounter u (x.timer u).counter = x :=
  x.setTimer_timer u

theorem toNat_sub_ofNat {n : BitVec 16} {k : Nat} (h : k ≤ n.toNat) :
    (n - BitVec.ofNat 16 k).toNat = n.toNat - k := by
  have hn := n.isLt
  have hk : (BitVec.ofNat 16 k).toNat = k := Nat.mod_eq_of_lt (by omega)
  rw [BitVec.toNat_sub_of_le (by rw [BitVec.le_def]; omega), hk]

theorem sub_ofNat_succ (n : BitVec 16) (k : Nat) :
    n - 1#16 - BitVec.ofNat 16 k = n - BitVec.ofNat 16 (k + 1) := by
  rw [BitVec.sub_sub, BitVec.ofNat_add, BitVec.add_comm]

/-- Ticks that do not find the counter at 1 take one from it each. -/
theorem tickTimes_countDown {c : Chip} {u : TimerId} {k : Nat} {s : State}
    (h : k < ((s.cia c).timer u).counter.toNat) :
    tickTimes c u k s =
      .ok (s.setCia c ((s.cia c).setCounter u (((s.cia c).timer u).counter - BitVec.ofNat 16 k))) := by
  induction k generalizing s with
  | zero => simp [tickTimes]
  | succ k ih =>
    have hcia : (countDown c u s).cia c = (s.cia c).setCounter u (((s.cia c).timer u).counter - 1#16) :=
      s.cia_setCia c _
    have hcounter : (((countDown c u s).cia c).timer u).counter = ((s.cia c).timer u).counter - 1#16 := by
      rw [hcia, Cia.timer_setCounter]
    have hlt : k < (((countDown c u s).cia c).timer u).counter.toNat := by
      rw [hcounter, toNat_sub_ofNat (by omega)]
      omega
    rw [tickTimes, tick_countDown (by omega)]
    dsimp only
    rw [ih hlt, hcounter, hcia, Cia.setCounter_setCounter, sub_ofNat_succ, countDown, State.setCia_setCia]

/-- Settles O46: `k` ticks take `k` from a counter above `k`, and the next is another such one unless they leave 1. -/
theorem ticksCountDown : Obligations.TicksCountDown := by
  intro s c u k hk
  have hn := toNat_sub_ofNat (Nat.le_of_lt hk)
  refine ⟨_, hn, tickTimes_countDown hk, fun hne => ⟨_, tick_countDown ?_, ?_, ?_⟩⟩
  · rw [State.cia_setCia, Cia.timer_setTimer]
    dsimp only
    omega
  · simp [countDown, Cia.setCounter]
  · simp [countDown]

/-! ## An expiry and its cascade (R248, R249) -/

/-- An expiry of unit A leaves CRB, and so what the cascade depends on. -/
theorem expireUnit_crb {c : Chip} {s t : State} (h : expireUnit c .a s = .ok t) : (t.cia c).crb = (s.cia c).crb :=
  ((expireUnit_ticks h).1 .b nofun).2

/-- Settles O47: steps (a) to (c) of an expiry as one update, and then the cascade of unit A. -/
theorem expiryEffects : Obligations.ExpiryEffects := by
  intro s c u hcount x oneShot x' q t t'
  have hexp : expireUnit c u s = .ok t' := by
    refine (expireUnit_eq s c u).trans ?_
    cases c <;> cases u <;> rfl
  cases u with
  | a => rw [tickA_expire hcount hexp, cascade_eq, expireUnit_crb hexp]; simp
  | b => rw [tickB_expire hcount, hexp]; simp

/-! ## The period of a continuous unit (R254) -/

/-- From `s` to `t` the unit has expired `k` times, as its flag and the Environment's calls show; its latch, the mask
and the control registers stay. -/
structure Expiries (c : Chip) (u : TimerId) (k : Nat) (s t : State) : Prop where
  latch : ((t.cia c).timer u).latch = ((s.cia c).timer u).latch
  control : ∀ v, (t.cia c).control v = (s.cia c).control v
  mask : (t.cia c).mask = (s.cia c).mask
  flags : (t.cia c).flags = if k = 0 then (s.cia c).flags else setFlag (s.cia c).flags u
  envCalls : t.envCalls = s.envCalls ++
    List.replicate (if (s.cia c).mask.getLsbD (timerBit u) then k else 0) (c, true)

theorem setFlag_setFlag (f : BitVec 5) (u : TimerId) : setFlag (setFlag f u) u = setFlag f u := by
  rw [setFlag, setFlag, BitVec.or_assoc, BitVec.or_self]

theorem Expiries.trans {c : Chip} {u : TimerId} {k m : Nat} {s t r : State} (h : Expiries c u k s t)
    (h' : Expiries c u m t r) : Expiries c u (k + m) s r where
  latch := h'.latch.trans h.latch
  control v := (h'.control v).trans (h.control v)
  mask := h'.mask.trans h.mask
  flags := by
    rw [h'.flags, h.flags]
    by_cases hk : k = 0 <;> by_cases hm : m = 0 <;> simp [hk, hm, setFlag_setFlag]
  envCalls := by
    rw [h'.envCalls, h.envCalls, h.mask, List.append_assoc, List.replicate_append_replicate]
    split <;> rfl

theorem Expiries.setCounter (c : Chip) (u : TimerId) (s : State) (n : BitVec 16) :
    Expiries c u 0 s (s.setCia c ((s.cia c).setCounter u n)) := by
  constructor <;> simp [Cia.setCounter]

theorem Expiries.refl (c : Chip) (u : TimerId) (s : State) : Expiries c u 0 s s := by
  constructor <;> simp

/-- An expiry of a continuous unit reloads its counter before step (c) (R248). -/
theorem expireUnit_continuous {c : Chip} {u : TimerId} {s : State} (h : ((s.cia c).control u).getLsbD 3 = false) :
    expireUnit c u s = .ok (expireInterrupt c u
      (s.setCia c (({ s.cia c with flags := setFlag (s.cia c).flags u } : Cia).loadCounter u))) := by
  have hcontrol : (((expireFlag c u s).cia c).control u).getLsbD 3 = false := by
    rw [expireFlag, State.cia_setCia]
    cases u <;> exact h
  have hreload : expireReload c u (expireFlag c u s) =
      .ok ((expireFlag c u s).setCia c (((expireFlag c u s).cia c).loadCounter u)) :=
    if_neg (by rw [crOneShot, hcontrol]; simp)
  rw [expireUnit, hreload, expireFlag, State.cia_setCia, State.setCia_setCia]

theorem expireInterrupt_envCalls (c : Chip) (u : TimerId) (s : State) :
    (expireInterrupt c u s).envCalls = s.envCalls ++
      List.replicate (if (s.cia c).mask.getLsbD (timerBit u) then 1 else 0) (c, true) := by
  unfold expireInterrupt
  dsimp only
  split <;> simp [*]

theorem expireUnit_expiries {c : Chip} {u : TimerId} {s t : State} (hcont : ((s.cia c).control u).getLsbD 3 = false)
    (h : expireUnit c u s = .ok t) :
    Expiries c u 1 s t ∧ ((t.cia c).timer u).counter = ((s.cia c).timer u).latch := by
  rw [expireUnit_continuous hcont] at h
  cases h
  obtain ⟨-, -, -, -, hunits⟩ := expireInterrupt_quiet c u
    (s.setCia c (({ s.cia c with flags := setFlag (s.cia c).flags u } : Cia).loadCounter u))
  refine ⟨⟨?_, fun v => ?_, ?_, ?_, ?_⟩, ?_⟩
  · rw [(expireInterrupt_frame c u _).latch, State.cia_setCia]
    cases u <;> rfl
  · rw [(hunits v).2, State.cia_setCia]
    cases u <;> cases v <;> rfl
  · rw [(expireInterrupt_frame c u _).mask, State.cia_setCia]
    cases u <;> rfl
  · rw [(expireInterrupt_registersKept c u _ c).2, State.cia_setCia]
    cases u <;> rfl
  · rw [expireInterrupt_envCalls, State.cia_setCia, State.setCia_envCalls]
    cases u <;> rfl
  · rw [(hunits u).1, State.cia_setCia]
    cases u <;> rfl

/-- A tick that finds the counter at 1 or 0 is an expiry alone, for a unit that does not cascade. -/
theorem tick_expire_alone {c : Chip} {u : TimerId} {s : State} (hcount : ((s.cia c).timer u).counter.toNat ≤ 1)
    (hcas : u = .a → cascaded (s.cia c) = false) : tick c u s = expireUnit c u s := by
  cases u with
  | b => exact tickB_expire hcount
  | a =>
    obtain ⟨t, ht⟩ := expireUnit_ok c .a s
    have hcas' : cascaded (t.cia c) = false := by
      rw [← hcas rfl, cascaded, cascaded, expireUnit_crb ht]
    rw [tickA_expire hcount ht, ht, cascade, hcas']
    rfl

/-- The unit is at the start of a period, is continuous, and does not cascade. -/
structure PeriodStart (c : Chip) (u : TimerId) (s : State) : Prop where
  full : ((s.cia c).timer u).counter = ((s.cia c).timer u).latch
  continuous : ((s.cia c).control u).getLsbD 3 = false
  alone : u = .a → cascaded (s.cia c) = false

/-- What an expiry leaves is the start of the next period. -/
theorem PeriodStart.expiries {c : Chip} {u : TimerId} {k : Nat} {s t : State} (h : PeriodStart c u s)
    (he : Expiries c u k s t) (hfull : ((t.cia c).timer u).counter = ((s.cia c).timer u).latch) :
    PeriodStart c u t where
  full := hfull.trans he.latch.symm
  continuous := by rw [he.control]; exact h.continuous
  alone hu := by
    have hcrb : (t.cia c).crb = (s.cia c).crb := he.control .b
    rw [cascaded, hcrb]
    exact h.alone hu

/-- A period of `L` ticks is `L - 1` that count down and an expiry. -/
theorem PeriodStart.period {c : Chip} {u : TimerId} {s : State} (h : PeriodStart c u s)
    (hpos : 0 < ((s.cia c).timer u).latch.toNat) :
    ∃ t, tickTimes c u ((s.cia c).timer u).latch.toNat s = .ok t ∧ Expiries c u 1 s t ∧ PeriodStart c u t := by
  have hlt : ((s.cia c).timer u).latch.toNat - 1 < ((s.cia c).timer u).counter.toNat := by rw [h.full]; omega
  have hdown := tickTimes_countDown hlt
  have hd := Expiries.setCounter c u s
    (((s.cia c).timer u).counter - BitVec.ofNat 16 (((s.cia c).timer u).latch.toNat - 1))
  generalize hr : s.setCia c _ = r at hdown hd
  have hone : ((r.cia c).timer u).counter.toNat ≤ 1 := by
    rw [← hr, State.cia_setCia, Cia.timer_setCounter]
    dsimp only
    rw [toNat_sub_ofNat (by omega), h.full]
    omega
  have hcont : ((r.cia c).control u).getLsbD 3 = false := by rw [hd.control]; exact h.continuous
  obtain ⟨t, ht⟩ := expireUnit_ok c u r
  obtain ⟨hex, hfull⟩ := expireUnit_expiries hcont ht
  have hcrb : (r.cia c).crb = (s.cia c).crb := hd.control .b
  have htick : tick c u r = .ok t :=
    (tick_expire_alone hone fun hu => by rw [cascaded, hcrb]; exact h.alone hu).trans ht
  refine ⟨t, ?_, by simpa using hd.trans hex, h.expiries (hd.trans hex) (hfull.trans hd.latch)⟩
  rw [← Nat.sub_add_cancel hpos, tickTimes_add hdown]
  exact tickTimes_one htick

theorem PeriodStart.periods {c : Chip} {u : TimerId} {s : State} (h : PeriodStart c u s)
    (hpos : 0 < ((s.cia c).timer u).latch.toNat) (k : Nat) :
    ∃ t, tickTimes c u (k * ((s.cia c).timer u).latch.toNat) s = .ok t ∧ Expiries c u k s t ∧ PeriodStart c u t := by
  induction k with
  | zero => exact ⟨s, by rw [Nat.zero_mul]; rfl, .refl c u s, h⟩
  | succ k ih =>
    obtain ⟨r, hr, he, hs⟩ := ih
    obtain ⟨t, ht, he', hs'⟩ := hs.period (by rw [he.latch]; exact hpos)
    refine ⟨t, ?_, he.trans he', hs'⟩
    rw [he.latch] at ht
    rw [Nat.succ_mul, tickTimes_add hr, ht]

/-- Settles O49: `k` periods, and then `j` ticks that count down. -/
theorem periodicExpiry : Obligations.PeriodicExpiry := by
  intro s c u k j hfull hcont hcas hj
  obtain ⟨r, hr, he, hs⟩ := PeriodStart.periods ⟨hfull, hcont, hcas⟩ (Nat.zero_lt_of_lt hj) k
  have hcounter : ((r.cia c).timer u).counter = ((s.cia c).timer u).latch := hs.full.trans he.latch
  have hdown := tickTimes_countDown (c := c) (u := u) (s := r) (by rw [hcounter]; exact hj)
  have hd := he.trans (.setCounter c u r (((r.cia c).timer u).counter - BitVec.ofNat 16 j))
  refine ⟨_, (tickTimes_add hr j).trans hdown, ?_, hd.flags, hd.envCalls⟩
  rw [State.cia_setCia, Cia.timer_setCounter, hcounter]
  exact toNat_sub_ofNat (Nat.le_of_lt hj)

end Sys2Proof.Machine
end

section
/-! PROOFS. The interrupt lines: `ASSERT`, `SAMPLE`, `ACK` and the output wires (43_interrupts.md R291 to R296), and the
NMI edge law (R293, R295, R298). -/

namespace Sys2Proof.Machine

/-! ## `ASSERT` (R291 to R293) -/

theorem nmiPendingAfter_eq (any prev pending : Bool) :
    nmiPendingAfter any prev pending = (pending || (any && !prev)) := by
  cases pending <;> simp [nmiPendingAfter]

/-- Settles O50: one level is set, and the OR of the new NMI levels is what `NmiUpdate` goes by. -/
theorem assertSetsOneLevel : Obligations.AssertSetsOneLevel := by
  intro s src b
  refine ⟨⟨_, fun j => levelOf_setLevel s.irqLevel src j b, rfl⟩,
    ⟨_, _, fun j => levelOf_setLevel s.nmiLevel src j b, anyAsserted_iff _, ?_⟩⟩
  rw [← nmiPendingAfter_eq]
  rfl

/-! ## `SAMPLE`, `ACK` and the wires (R294 to R296) -/

/-- Settles O51: `SAMPLE` answers the wires, and `irq_out` is the OR of its levels. -/
theorem sampleAndAcknowledge : Obligations.SampleAndAcknowledge := fun s =>
  ⟨⟨s.irqOut, anyAsserted_iff s.irqLevel, rfl, rfl⟩, rfl, rfl, rfl⟩

/-! ## The part of the state that the NMI edge is detected from (R293) -/

/-- The NMI levels, the OR they last had, and the pending NMI. -/
@[ext] structure NmiPart where
  level : Levels
  prev : Bool
  pending : Bool

def State.nmiPart (s : State) : NmiPart := ⟨s.nmiLevel, s.nmiPrev, s.nmiPending⟩

/-- `Assert(NMI, i, b)` on this part (R292, R293). -/
def NmiPart.assert (n : NmiPart) (i : BitVec 4) (b : Bool) : NmiPart where
  level := setLevel n.level i b
  prev := anyAsserted (setLevel n.level i b)
  pending := nmiPendingAfter (anyAsserted (setLevel n.level i b)) n.prev n.pending

theorem State.nmiPart_assertLine_nmi (s : State) (i : BitVec 4) (b : Bool) :
    (s.assertLine .nmi i b).nmiPart = s.nmiPart.assert i b := rfl

/-- The same assertion again finds the level set and no edge. -/
theorem NmiPart.assert_assert (n : NmiPart) (i : BitVec 4) (b : Bool) : (n.assert i b).assert i b = n.assert i b := by
  have hset : setLevel (setLevel n.level i b) i b = setLevel n.level i b := Vector.set_set ..
  ext1
  case level => exact hset
  case prev => exact congrArg anyAsserted hset
  case pending => simp [assert, hset, nmiPendingAfter_eq]

/-- From `n` to `m` the part stays, or source `i` is asserted at `b`. -/
def NmiPart.AtMostAssert (i : BitVec 4) (b : Bool) (n m : NmiPart) : Prop := m = n ∨ m = n.assert i b

namespace NmiPart.AtMostAssert
variable {i : BitVec 4} {b : Bool} {n m r : NmiPart}

theorem trans (h : AtMostAssert i b n m) (h' : AtMostAssert i b m r) : AtMostAssert i b n r := by
  rcases h with rfl | rfl
  · exact h'
  · exact .inr (h'.elim id fun hr => hr.trans (n.assert_assert i b))

/-- An assertion clears no pending NMI (R293). -/
theorem pending (h : AtMostAssert i b n m) (hn : n.pending = true) : m.pending = true := by
  rcases h with rfl | rfl
  · exact hn
  · simp [assert, nmiPendingAfter_eq, hn]

/-- An NMI that becomes pending does so at a rising OR (R293, R298). -/
theorem rises (h : AtMostAssert i b n m) (hprev : n.prev = anyAsserted n.level) (hn : n.pending = false)
    (hm : m.pending = true) : (∀ j, levelOf n.level j = false) ∧ ∃ j, levelOf m.level j = true := by
  rcases h with rfl | rfl
  · exact absurd hm (by simp [hn])
  · have hedge : anyAsserted (setLevel n.level i b) = true ∧ n.prev = false := by
      simpa [assert, nmiPendingAfter_eq, hn] using hm
    obtain ⟨hany, hlow⟩ := hedge
    refine ⟨fun j => ?_, (anyAsserted_iff _).1 hany⟩
    by_contra hj
    have := (anyAsserted_iff n.level).2 ⟨j, by simpa using hj⟩
    simp [← hprev, hlow] at this

end NmiPart.AtMostAssert

/-! ## Updates that leave this part -/

@[simp] theorem State.nmiPart_setCia (s : State) (c : Chip) (x : Cia) : (s.setCia c x).nmiPart = s.nmiPart := by
  cases c <;> rfl

@[simp] theorem State.nmiPart_setTick (s : State) (c : Chip) (u : TimerId) (h : Option Handle) :
    (s.setTick c u h).nmiPart = s.nmiPart :=
  s.nmiPart_setCia c _

@[simp] theorem countDown_nmiPart (c : Chip) (u : TimerId) (s : State) : (countDown c u s).nmiPart = s.nmiPart :=
  s.nmiPart_setCia c _

theorem afterPortWrite_nmiPart (c : Chip) (p : TimerId) (s : State) : (afterPortWrite c p s).nmiPart = s.nmiPart := by
  unfold afterPortWrite
  split
  case h_1 => obtain ⟨b, o, h⟩ := updateSide_eq s; rw [h]; rfl
  all_goals rfl

/-- `Reconcile` is about the queue and the ticks (42_timer.md R243). -/
theorem reconcile_nmiPart (c : Chip) (u : TimerId) (s : State) : (settled (reconcile c u s)).nmiPart = s.nmiPart := by
  rcases reconcile_cases c u s with ⟨h, -⟩ | ⟨k, -, -, h⟩ | ⟨-, -, ⟨-, h⟩ | ⟨-, h⟩ | ⟨-, -, h⟩⟩ <;> rw [h]
  · rfl
  · exact (s.dequeue k).nmiPart_setTick c u none
  · rfl
  · rfl
  · exact State.nmiPart_setTick _ c u _

theorem writeControl_nmiPart (c : Chip) (u : TimerId) (v : Byte) (s : State) :
    (settled (writeControl c u v s)).nmiPart = s.nmiPart := by
  obtain ⟨x, hx, -⟩ := writeControl_split c u v s
  rw [hx, reconcile_nmiPart, State.nmiPart_setCia]

/-! ## Updates that assert at most one source -/

/-- A chip's output is source 0 of its line: CIA2's of the NMI, CIA1's not (42_timer.md R266). -/
theorem raiseInterrupt_nmiPart (c : Chip) (x : Cia) (b : Bool) (s : State) :
    NmiPart.AtMostAssert 0#4 b s.nmiPart ((s.setCia c x).raiseInterrupt c b).nmiPart := by
  cases c
  · exact .inl rfl
  · exact .inr rfl

theorem clearIcr_nmiPart (c : Chip) (s : State) :
    NmiPart.AtMostAssert 0#4 false s.nmiPart (clearIcr c s).nmiPart := by
  unfold clearIcr
  dsimp only
  split
  · exact raiseInterrupt_nmiPart c _ false s
  · exact .inl (s.nmiPart_setCia c _)

theorem writeMask_nmiPart (c : Chip) (v : Byte) (s : State) :
    NmiPart.AtMostAssert 0#4 true s.nmiPart (writeMask c v s).nmiPart := by
  unfold writeMask
  dsimp only
  split
  · exact raiseInterrupt_nmiPart c _ true s
  · exact .inl (s.nmiPart_setCia c _)

theorem expireUnit_nmiPart {c : Chip} {u : TimerId} {s t : State} (h : expireUnit c u s = .ok t) :
    NmiPart.AtMostAssert 0#4 true s.nmiPart t.nmiPart := by
  obtain ⟨x, q, rfl, -⟩ := expireUnit_split h
  have hr : ({ s.setCia c x with queue := q } : State).nmiPart = s.nmiPart := s.nmiPart_setCia c x
  unfold expireInterrupt
  dsimp only
  rw [← hr]
  split
  · exact raiseInterrupt_nmiPart c _ true _
  · exact .inl rfl

/-- A tick and its cascade assert the same source of the same line (42_timer.md R246 to R249). -/
theorem tick_nmiPart {c : Chip} {u : TimerId} {s t : State} (h : tick c u s = .ok t) :
    NmiPart.AtMostAssert 0#4 true s.nmiPart t.nmiPart := by
  rcases tick_cases h with rfl | h | ⟨-, r, hr, -, rfl | h⟩
  · exact .inl (countDown_nmiPart c u s)
  · exact expireUnit_nmiPart h
  · exact (expireUnit_nmiPart hr).trans (.inl (countDown_nmiPart c .b r))
  · exact (expireUnit_nmiPart hr).trans (expireUnit_nmiPart h)

theorem fireTick_nmiPart (c : Chip) (u : TimerId) (s : State) :
    NmiPart.AtMostAssert 0#4 true s.nmiPart (settled (fireTick c u s)).nmiPart := by
  obtain ⟨t, ht, h⟩ := settled_fireTick c u s
  rw [h, reconcile_nmiPart, ← s.nmiPart_setTick c u none]
  exact tick_nmiPart ht

theorem sweepStep_nmiPart (rem : BitVec 64) (s : State) :
    NmiPart.AtMostAssert 0#4 true s.nmiPart (sweepStep rem s).nmiPart := by
  obtain ⟨-, h⟩ | ⟨e, -, -, -, ⟨tag, -, h⟩ | ⟨c, u, -, h⟩⟩ := sweepStep_cases rem s <;> rw [h]
  · unfold endSweep
    split <;> exact .inl rfl
  · exact .inl rfl
  · exact fireTick_nmiPart c u (s.dequeue e.seq)

/-- An instruction but `ACK NMI` asserts at most one source of the NMI. -/
theorem Effect.nmiPart {i : Instr} {s t : State} (he : Effect i s t) (hi : i ≠ .ack) :
    ∃ j b, NmiPart.AtMostAssert j b s.nmiPart t.nmiPart := by
  have kept : t.nmiPart = s.nmiPart → ∃ j b, NmiPart.AtMostAssert j b s.nmiPart t.nmiPart :=
    fun h => ⟨0#4, false, .inl h⟩
  cases he
  case ack h => exact absurd h hi
  case assert l src b _ =>
    cases l
    · exact kept rfl
    · exact ⟨src, b, .inr (s.nmiPart_assertLine_nmi src b)⟩
  case icrRead c => exact ⟨0#4, false, clearIcr_nmiPart c s⟩
  case icrWrite c v => exact ⟨0#4, true, writeMask_nmiPart c v s⟩
  case schedule hq => obtain ⟨_, rfl⟩ := enqueue_ok hq; exact kept rfl
  case scheduleStop hq => obtain ⟨_, rfl⟩ := enqueue_error hq; exact kept rfl
  case ciaPort c p v => exact kept ((afterPortWrite_nmiPart c p _).trans (s.nmiPart_setCia c _))
  case ciaDir c p v => exact kept ((afterPortWrite_nmiPart c p _).trans (s.nmiPart_setCia c _))
  case ciaLow c u v => exact kept (s.nmiPart_setCia c _)
  case ciaHigh c u v => exact kept (s.nmiPart_setCia c _)
  case control c u v r _ hw =>
    have hk := writeControl_nmiPart c u v s
    rw [hw] at hk
    exact kept hk
  case controlStop c u v _ hw =>
    have hk := writeControl_nmiPart c u v s
    rw [hw] at hk
    exact kept hk
  all_goals exact kept rfl

/-! ## The edge law (R298) -/

/-- A step that leaves an NMI pending asserts at most one source of the NMI: it is no `ACK NMI`. -/
theorem step_nmiPart {s t : State} (h : step s = .next t) (ht : t.nmiPending = true) :
    ∃ j b, NmiPart.AtMostAssert j b s.nmiPart t.nmiPart := by
  obtain ⟨-, ⟨rem, -, rfl⟩ | ⟨-, rfl | ⟨f, -, rfl⟩ | ⟨f, i, -, -, hx⟩⟩⟩ := step_cases h
  · exact ⟨_, _, sweepStep_nmiPart rem s⟩
  · exact ⟨0#4, false, .inl rfl⟩
  · exact ⟨0#4, false, .inl rfl⟩
  · refine (exec_effect hx).nmiPart fun hack => ?_
    rw [hack] at hx
    cases hx
    cases ht

/-- Settles O52: but for `ACK NMI`, a step or instruction asserts at most one source of the NMI; that clears no pending
NMI, and sets it only at a rising OR. -/
theorem nmiNeedsARisingEdge : Obligations.NmiNeedsARisingEdge := by
  refine ⟨fun s t hprev h hs ht => ?_, fun i s t h hi hs => ?_, fun rem s hs => (sweepStep_nmiPart rem s).pending hs⟩
  · obtain ⟨j, b, ha⟩ := step_nmiPart h ht
    exact ha.rises hprev hs ht
  · obtain ⟨j, b, ha⟩ := (exec_effect h).nmiPart hi
    exact ha.pending hs

end Sys2Proof.Machine
end

section
/-! PROOFS. Stops (60_exceptions.md): which an instruction or a sweep step can raise (R313), that a stop is reported
last (R311, R312), and the steps that take no command (R311; 30_encoding.md R110; 40_scheduler.md R147). -/

namespace Sys2Proof.Machine

/-! ## Updates that stop nothing -/

/-- From `s` to `t` no stop is recorded and no `STOP` emitted. -/
structure NoStop (s t : State) : Prop where
  fault : t.fault = s.fault
  refusal : t.refusal = s.refusal
  output : ∃ out, t.output = s.output ++ out ∧ ∀ code, .stop code ∉ out

theorem NoStop.trans {s t r : State} (h : NoStop s t) (h' : NoStop t r) : NoStop s r where
  fault := h'.fault.trans h.fault
  refusal := h'.refusal.trans h.refusal
  output := by
    obtain ⟨out, ho, hn⟩ := h.output
    obtain ⟨out', ho', hn'⟩ := h'.output
    exact ⟨out ++ out', by rw [ho', ho, List.append_assoc],
      fun code hc => (List.mem_append.1 hc).elim (hn code) (hn' code)⟩

/-- An update of none of these fields. -/
theorem NoStop.of_fields {s t : State} (output : t.output = s.output := by rfl) (fault : t.fault = s.fault := by rfl)
    (refusal : t.refusal = s.refusal := by rfl) : NoStop s t :=
  ⟨fault, refusal, [], by rw [output, List.append_nil], nofun⟩

theorem NoStop.refl (s : State) : NoStop s s := .of_fields

theorem Emits.noStop {s t : State} (h : Emits [] s t) : NoStop s t := ⟨h.fault, h.refusal, [], h.output, nofun⟩

/-- An update that stops nothing, and then an item that is no `STOP`. -/
theorem NoStop.emit {s t : State} (h : NoStop s t) {o : Output} (ho : ∀ code, .stop code ≠ o := by nofun) :
    NoStop s (t.emit o) :=
  h.trans ⟨rfl, rfl, [o], rfl, fun code hc => ho code (List.mem_singleton.1 hc)⟩

/-- The side effect of a port write emits `SIDE` at most (42_timer.md R268). -/
theorem NoStop.portWrite (c : Chip) (p : TimerId) (s : State) (x : Cia) :
    NoStop s (afterPortWrite c p (s.setCia c x)) := by
  refine (Emits.setCia s c x).noStop.trans ?_
  unfold afterPortWrite
  split
  case h_1 =>
    unfold updateSide
    dsimp only
    split
    · exact .of_fields
    · exact NoStop.emit (t := { s.setCia .cia1 x with side := sideLevel (s.setCia .cia1 x).cia1 }) .of_fields
  all_goals exact .of_fields

/-! ## Updates that may stop -/

/-- `t` follows from `s` with at most one stop, one of the faults `fs` or of the refusals `rs`, which comes last. -/
inductive Ends (fs : List FaultCode) (rs : List RefusalCode) (s : State) : State → Prop
  | goesOn {t : State} (h : NoStop s t) : Ends fs rs s t
  | faults {t : State} (h : NoStop s t) (c : FaultCode) (hc : c ∈ fs) : Ends fs rs s (t.raiseFault c)
  | refuses {t : State} (h : NoStop s t) (c : RefusalCode) (hc : c ∈ rs) : Ends fs rs s (t.raiseRefusal c)

section
variable {fs fs' : List FaultCode} {rs rs' : List RefusalCode} {s t r : State}

theorem Ends.mono (h : Ends fs rs s t) (hf : fs ⊆ fs') (hr : rs ⊆ rs') : Ends fs' rs' s t := by
  cases h with
  | goesOn h => exact .goesOn h
  | faults h c hc => exact .faults h c (hf hc)
  | refuses h c hc => exact .refuses h c (hr hc)

theorem NoStop.ends (h : NoStop s t) (h' : Ends fs rs t r) : Ends fs rs s r := by
  cases h' with
  | goesOn h' => exact .goesOn (h.trans h')
  | faults h' c hc => exact .faults (h.trans h') c hc
  | refuses h' c hc => exact .refuses (h.trans h') c hc

/-- From a running state, the code a step ends with is one of those listed. -/
theorem Ends.codes (h : Ends fs rs s t) (hs : s.stopped = false) :
    (t.fault = none ∨ ∃ c ∈ fs, t.fault = some c) ∧ (t.refusal = none ∨ ∃ c ∈ rs, t.refusal = some c) := by
  obtain ⟨hfault, hrefusal⟩ := State.stopped_eq_false.1 hs
  cases h with
  | goesOn h => exact ⟨.inl (h.fault.trans hfault), .inl (h.refusal.trans hrefusal)⟩
  | faults h c hc => exact ⟨.inr ⟨c, hc, rfl⟩, .inl (h.refusal.trans hrefusal)⟩
  | refuses h c hc => exact ⟨.inl (h.fault.trans hfault), .inr ⟨c, hc, rfl⟩⟩

end

/-! ## Rules that may overflow (40_scheduler.md R140; 42_timer.md R243) -/

/-- The stops of a rule that queues an event (40_scheduler.md R140). -/
def overflowFaults : List FaultCode := [.cycleOverflow, .seqOverflow]

/-- A rule stops nothing, or ends in the stop of an overflow. -/
def MayOverflow (s : State) (r : Except State State) : Prop :=
  (∃ t, r = .ok t ∧ NoStop s t) ∨ ∃ t, ∃ c ∈ overflowFaults, r = .error (t.raiseFault c) ∧ NoStop s t

theorem MayOverflow.settled {s : State} {r : Except State State} (h : MayOverflow s r) :
    Ends overflowFaults [] s (settled r) := by
  obtain ⟨t, rfl, ht⟩ | ⟨t, c, hc, rfl, ht⟩ := h
  · exact .goesOn ht
  · exact .faults ht c hc

theorem reconcile_mayOverflow (c : Chip) (u : TimerId) (s : State) : MayOverflow s (reconcile c u s) := by
  rcases reconcile_cases c u s with ⟨h, -⟩ | ⟨k, -, -, h⟩ | ⟨-, -, ⟨-, h⟩ | ⟨-, h⟩ | ⟨-, -, h⟩⟩
  · exact .inl ⟨_, h, .refl s⟩
  · exact .inl ⟨_, h, .trans (t := s.dequeue k) .of_fields (Emits.setCia _ c _).noStop⟩
  · exact .inr ⟨s, _, .head _, h, .refl s⟩
  · exact .inr ⟨s, _, .tail _ (.head _), h, .refl s⟩
  · exact .inl ⟨_, h, NoStop.trans (t := { s with queue := _, nextSeq := _ }) .of_fields
      (Emits.setCia _ c _).noStop⟩

theorem writeControl_mayOverflow (c : Chip) (u : TimerId) (v : Byte) (s : State) :
    MayOverflow s (writeControl c u v s) := by
  obtain ⟨x, hx, -⟩ := writeControl_split c u v s
  have hset := (Emits.setCia s c x).noStop
  rw [hx]
  obtain ⟨t, h, ht⟩ | ⟨t, f, hf, h, ht⟩ := reconcile_mayOverflow c u (s.setCia c x)
  · exact .inl ⟨t, h, hset.trans ht⟩
  · exact .inr ⟨t, f, hf, h, hset.trans ht⟩

/-- The firing of a tick event is a tick, which stops nothing, and then `Reconcile` (42_timer.md R247). -/
theorem fireTick_ends (c : Chip) (u : TimerId) (s : State) : Ends overflowFaults [] s (settled (fireTick c u s)) := by
  obtain ⟨t, ht, h⟩ := settled_fireTick c u s
  rw [h]
  have htick : NoStop (s.setTick c u none) t :=
    .of_fields (tick_quiet ht).output (tick_quiet ht).fault (tick_frame ht).refusal
  exact ((Emits.setCia s c _).noStop.trans htick).ends (reconcile_mayOverflow c u t).settled

theorem sweepStep_ends (rem : BitVec 64) (s : State) : Ends overflowFaults [] s (sweepStep rem s) := by
  obtain ⟨-, h⟩ | ⟨e, -, -, -, ⟨tag, -, h⟩ | ⟨c, u, -, h⟩⟩ := sweepStep_cases rem s <;> rw [h]
  · unfold endSweep
    split
    · exact .goesOn (NoStop.emit (t := { s with sweep := .idle }) .of_fields)
    · exact .goesOn .of_fields
  · exact .goesOn (NoStop.trans (NoStop.emit (t := s.dequeue e.seq) (o := .fire e.seq tag) .of_fields) .of_fields)
  · exact NoStop.ends .of_fields (fireTick_ends c u (s.dequeue e.seq))

/-! ## Instructions (R313) -/

/-- The stops an instruction ends with are those that R313 lists for it. -/
def EndsAsListed (i : Instr) (s t : State) : Prop := Ends (faultsOf i) (refusalsOf i) s t

theorem endsAsListed_fault {i : Instr} (s : State) {c : FaultCode}
    (hc : (faultsOf i).contains c = true := by rfl) : EndsAsListed i s (s.raiseFault c) :=
  .faults (.refl s) c (List.contains_iff_mem.1 hc)

theorem endsAsListed_refusal {i : Instr} (s : State) {c : RefusalCode}
    (hc : (refusalsOf i).contains c = true := by rfl) : EndsAsListed i s (s.raiseRefusal c) :=
  .refuses (.refl s) c (List.contains_iff_mem.1 hc)

/-- An update that stops nothing, and then the response. -/
theorem NoStop.listed {i : Instr} {s t : State} (h : NoStop s t) {o : Output}
    (ho : ∀ code, .stop code ≠ o := by nofun) : EndsAsListed i s (t.emit o) :=
  .goesOn (h.emit ho)

/-- An update whose only output is the response. -/
theorem endsAsListed_response {i : Instr} {s t : State} {o : Output} (output : t.output = s.output ++ [o])
    (fault : t.fault = s.fault) (refusal : t.refusal = s.refusal) (ho : ∀ code, .stop code ≠ o := by nofun) :
    EndsAsListed i s t :=
  .goesOn ⟨fault, refusal, [o], output, fun code hc => ho code (List.mem_singleton.1 hc)⟩

theorem execSchedule_listed {d : BitVec 64} {p : BitVec 4} {tag : BitVec 16} {s t : State}
    (h : execSchedule d p tag s = .next t) : EndsAsListed (.schedule d p tag) s t := by
  unfold execSchedule at h
  split at h
  · cases h; exact endsAsListed_fault s
  split at h
  · cases h; exact endsAsListed_fault s
  obtain ⟨-, he⟩ | ⟨-, -, he⟩ | ⟨-, -, he⟩ := enqueue_cases s d.toNat p.toNat (.ext tag) <;>
    (rw [he] at h; cases h)
  · exact endsAsListed_fault s
  · exact endsAsListed_fault s
  · exact (Emits.enqueue he).noStop.listed

theorem execCancel_listed {k : Handle} {s t : State} (h : execCancel k s = .next t) : EndsAsListed (.cancel k) s t := by
  unfold execCancel at h
  split at h
  · cases h; exact endsAsListed_fault s
  split at h
  · cases h; exact (NoStop.refl s).listed
  split at h
  · cases h; exact endsAsListed_fault s
  · cases h; exact NoStop.listed (t := s.dequeue k) .of_fields

theorem execAdvance_listed {n : BitVec 28} {s t : State} (h : execAdvance n s = .next t) :
    EndsAsListed (.advance n) s t := by
  unfold execAdvance at h
  split at h
  · cases h; exact endsAsListed_fault s
  split at h
  · cases h; exact .goesOn .of_fields
  split at h
  · cases h; exact endsAsListed_fault s
  · cases h; exact .goesOn .of_fields

theorem execReturn_listed {s t : State} (h : execReturn s = .next t) : EndsAsListed .ret s t := by
  unfold execReturn at h
  split at h <;> cases h
  · exact .goesOn .of_fields
  · exact endsAsListed_fault s
  · exact endsAsListed_fault s

theorem execWriteCiaCr_listed {c : Chip} {a : Addr} {v : Byte} {s t : State}
    (h : execWriteCiaCr c a v s = .next t) : EndsAsListed (.writeCiaCr c a v) s t := by
  unfold execWriteCiaCr at h
  split at h
  · cases h; exact endsAsListed_refusal s
  obtain ⟨r, hr, hns⟩ | ⟨r, f, hf, hr, hns⟩ := writeControl_mayOverflow c (controlSel a) v s <;>
    (rw [hr] at h; cases h)
  · exact hns.listed
  · exact .faults hns f hf

/-- The instruction is a `READ` or a `WRITE`, which does what its row does (30_encoding.md R126). -/
def isAccess : Instr → Bool
  | .read _ | .write _ _ => true
  | _ => false

theorem exec_listed_of_row {i : Instr} {s t : State} (hi : isAccess i = false) (h : exec i s = .next t) :
    EndsAsListed i s t := by
  cases i
  case read | write => cases hi
  case schedule => exact execSchedule_listed h
  case cancel => exact execCancel_listed h
  case advance => exact execAdvance_listed h
  case ret => exact execReturn_listed h
  case writeCiaCr => exact execWriteCiaCr_listed h
  case reservedOp0 | reservedOpD | reservedOpE | reservedOpF | writeRom => cases h; exact endsAsListed_fault s
  case readCiaTod | writeCiaTod | readCiaSdr | writeCiaSdr => cases h; exact endsAsListed_refusal s
  case sample l => cases l <;> (cases h; exact (NoStop.refl s).listed)
  case assert l src b => cases h; exact (Emits.assertLine s l src b).noStop.listed
  case readCiaIcr c a => cases h; exact (Emits.clearIcr c s).noStop.listed
  case writeCiaIcr c a v => cases h; exact (Emits.writeMask c v s).noStop.listed
  case writeCiaPr c a v | writeCiaDdr c a v => cases h; exact (NoStop.portWrite c _ s _).listed
  case writeCiaTlo c a v | writeCiaThi c a v => cases h; exact (Emits.setCia s c _).noStop.listed
  case readVic | readSid | readRoml | readRomhA | readRomhE | readIo1 | readIo2 =>
    cases h; exact (((NoStop.refl s).emit).trans (Emits.afterDraw _).noStop).listed
  case writeVic | writeSid | writeRoml | writeRomhE | writeIo1 | writeIo2 =>
    cases h; exact (NoStop.refl s).emit.listed
  all_goals cases h; exact endsAsListed_response rfl rfl rfl

/-! ## `READ` and `WRITE`, through their rows (30_encoding.md R126) -/

/-- `i` is a row that lists no stop but those of `j`. -/
def isRowOf (j i : Instr) : Bool :=
  !isAccess i && (faultsOf i).all (faultsOf j).contains && (refusalsOf i).all (refusalsOf j).contains

/-- What a row ends with, its access ends with. -/
theorem endsAsListed_of_row {i j : Instr} {s t : State} (hrow : isRowOf j i = true) (h : exec i s = .next t) :
    EndsAsListed j s t := by
  simp only [isRowOf, Bool.and_eq_true, Bool.not_eq_true', List.all_eq_true, List.contains_iff_mem] at hrow
  obtain ⟨⟨hi, hf⟩, hr⟩ := hrow
  exact (exec_listed_of_row hi h).mono hf hr

theorem readRow_isRowOf (b : Bank) (a : Addr) : isRowOf (.read a) (readRow b a) = true := by
  have hcia (c : Chip) : isRowOf (.read a) (ciaReadRow c a) = true := by
    rw [ciaReadRow_eq]
    cases regKind (a.toNat % 16) <;> rfl
  cases b
  case port => unfold readRow; dsimp only; split <;> rfl
  case cia1 => exact hcia .cia1
  case cia2 => exact hcia .cia2
  case ext x =>
    cases x
    case romh => unfold readRow extReadRow; dsimp only; split <;> rfl
    all_goals rfl
  all_goals rfl

theorem writeRow_isRowOf (b : Bank) (a : Addr) (v : Byte) : isRowOf (.write a v) (writeRow b a v) = true := by
  have hcia (c : Chip) : isRowOf (.write a v) (ciaWriteRow c a v) = true := by
    rw [ciaWriteRow_eq]
    cases regKind (a.toNat % 16) <;> rfl
  cases b
  case port => unfold writeRow; dsimp only; split <;> rfl
  case cia1 => exact hcia .cia1
  case cia2 => exact hcia .cia2
  case ext x => cases x <;> rfl
  all_goals rfl

/-- Every instruction ends as R313 lists it, but a `READ` or `WRITE` of an address that the tables bind to no Bank
(log 15), which tables that pass the check do not leave (20_memory.md R86). -/
theorem exec_listed {i : Instr} {s t : State} (h : exec i s = .next t) :
    EndsAsListed i s t ∨ (tablesValid s.cfg.plaRead s.cfg.plaWrite ≠ true ∧ t = s.raiseFault .configInvalid) := by
  obtain ⟨-, -, hbinds⟩ := tableCheckBindsEveryAddress
  by_cases hi : isAccess i = true
  case neg => exact .inl (exec_listed_of_row (by simpa using hi) h)
  cases i
  case read a =>
    cases hb : readBank s.mapConfig a with
    | some b => exact .inl (endsAsListed_of_row (readRow_isRowOf b a) ((exec_readRow hb).trans h))
    | none =>
      rw [exec_read, execRead, hb] at h
      cases h
      refine .inr ⟨fun hvalid => ?_, rfl⟩
      obtain ⟨b, -, hread, -⟩ := hbinds s.mapConfig a hvalid
      rw [hb] at hread
      cases hread
  case write a v =>
    cases hb : writeBank s.mapConfig a with
    | some b => exact .inl (endsAsListed_of_row (writeRow_isRowOf b a v) ((exec_writeRow v hb).trans h))
    | none =>
      rw [exec_write, execWrite, hb] at h
      cases h
      refine .inr ⟨fun hvalid => ?_, rfl⟩
      obtain ⟨-, b, -, hwrite, -⟩ := hbinds s.mapConfig a hvalid
      rw [hb] at hwrite
      cases hwrite
  all_goals cases hi

/-- Settles O53: every instruction ends in a stop that is listed for it or in none, and a sweep step, which may
queue a unit's next tick, in an overflow or in none. -/
theorem stopsByInstruction : Obligations.StopsByInstruction := by
  refine ⟨fun i s t hvalid hs h => ?_, fun rem s hs => ?_⟩
  · exact Ends.codes ((exec_listed h).resolve_right fun hc => hc.1 hvalid) hs
  · obtain ⟨hfault, hrefusal⟩ := (sweepStep_ends rem s).codes hs
    exact ⟨by simpa using hrefusal, by simpa [overflowFaults] using hfault⟩

/-! ## Every step (R311, R312) -/

theorem step_ends {s t : State} (h : step s = .next t) : s.stopped = false ∧ ∃ fs rs, Ends fs rs s t := by
  obtain ⟨hs, ⟨rem, -, rfl⟩ | ⟨-, rfl | ⟨f, -, rfl⟩ | ⟨f, i, -, -, hx⟩⟩⟩ := step_cases h
  · exact ⟨hs, _, _, sweepStep_ends rem s⟩
  · exact ⟨hs, [], [], .goesOn (.refl _)⟩
  · exact ⟨hs, [.illegalCommand], [], .faults (t := { s with commands := f.rest }) .of_fields _ (.head _)⟩
  · have htaken : NoStop s { s with commands := f.rest } := .of_fields
    obtain he | ⟨-, rfl⟩ := exec_listed hx
    · exact ⟨hs, _, _, htaken.ends he⟩
    · exact ⟨hs, [.configInvalid], [], .faults htaken _ (.head _)⟩

/-- Settles O54: a step goes on without a `STOP`, or ends in one stop after items that are none. -/
theorem stopIsReportedLast : Obligations.StopIsReportedLast := by
  intro s t h
  obtain ⟨hs, fs, rs, he⟩ := step_ends h
  obtain ⟨hfault, hrefusal⟩ := State.stopped_eq_false.1 hs
  cases he with
  | goesOn hns =>
    obtain ⟨out, ho, hfree⟩ := hns.output
    exact ⟨out, ho, fun _ => hfree, by simp [hns.fault, hfault], by simp [hns.refusal, hrefusal]⟩
  | @faults r hns c _ =>
    obtain ⟨out, ho, hfree⟩ := hns.output
    refine ⟨out ++ [.stop c.code], by simp [ho], by simp, fun c' hc => ?_, by simp [hns.refusal, hrefusal]⟩
    obtain rfl : c = c' := Option.some.inj hc
    exact ⟨hns.refusal.trans hrefusal, out, rfl, hfree⟩
  | @refuses r hns c _ =>
    obtain ⟨out, ho, hfree⟩ := hns.output
    refine ⟨out ++ [.stop c.code], by simp [ho], by simp, by simp [hns.fault, hfault], fun c' hc => ?_⟩
    obtain rfl : c = c' := Option.some.inj hc
    exact ⟨hns.fault.trans hfault, out, rfl, hfree⟩

/-! ## Steps that take no command (R311; 30_encoding.md R110; 40_scheduler.md R147) -/

theorem step_of_fault {s : State} {c : FaultCode} (h : s.fault = some c) : step s = .fault (.stopped c) := by
  rw [step, h]

theorem step_of_refusal {s : State} {c : RefusalCode} (hf : s.fault = none) (hr : s.refusal = some c) :
    step s = .refused (.stopped c) := by
  rw [step, hf, hr]

/-- With no complete command in its input the core waits (log 8). -/
theorem step_of_no_command {s : State} (ha : s.accepts = true) (hf : fetch s.commands = none) : step s = .next s := by
  simp only [step_of_accepts ha, State.incoming, hf]

/-- Settles O10: one equation of `step` for each kind of state. -/
theorem stepsWithoutACommand : Obligations.StepsWithoutACommand :=
  ⟨fun _ _ => step_of_fault, fun _ _ => step_of_refusal, fun _ _ => step_of_sweep, fun _ => step_of_no_command⟩

end Sys2Proof.Machine
end

section
/-! PROOFS. Reset and hazards (70_reset_and_hazards.md): the check of the parameters at power-on (R351), the Ultimax
configuration (R365), and an `ADVANCE` while nothing falls due (R366). -/

namespace Sys2Proof.Machine

/-! ## The check of the parameters (R351) -/

theorem forall_chip {P : Chip → Prop} : (∀ c, P c) ↔ P .cia1 ∧ P .cia2 :=
  ⟨fun h => ⟨h .cia1, h .cia2⟩, fun h c => by cases c; exacts [h.1, h.2]⟩

theorem paramsValid_iff (p : Params) :
    paramsValid p = true ↔
      1 ≤ p.nphase ∧ p.nphase ≤ 16 ∧ p.timerPhase < p.nphase ∧
      (∀ c : Chip, 1 ≤ timerRate p c ∧ timerRate p c ≤ 2 ^ 32 - 1) ∧ tablesValid p.plaRead p.plaWrite = true := by
  simp only [paramsValid, Bool.and_eq_true, decide_eq_true_eq, forall_chip, timerRate, and_assoc]

theorem State.powerOn_of_invalid {p : Params} (h : paramsValid p ≠ true) :
    State.powerOn p = (powerOnFields p).raiseFault .configInvalid := if_neg h

theorem State.powerOn_fault_eq_none_iff (p : Params) : (State.powerOn p).fault = none ↔ paramsValid p = true := by
  by_cases h : paramsValid p = true
  · rw [State.powerOn_of_valid h]
    exact iff_of_true rfl h
  · rw [State.powerOn_of_invalid h]
    exact iff_of_false nofun h

/-- Settles O12: power-on has a fault exactly when the check fails, and then it is the stop of the power-on fields. -/
theorem powerOnRejectsBadParameters : Obligations.PowerOnRejectsBadParameters := by
  refine fun p => ⟨(State.powerOn_fault_eq_none_iff p).trans (paramsValid_iff p), fun hfault => ?_⟩
  have hstop := State.powerOn_of_invalid (mt (State.powerOn_fault_eq_none_iff p).2 hfault)
  exact ⟨hstop, step_of_fault (by rw [hstop]; rfl)⟩

/-! ## The Ultimax configuration (R365) -/

/-- In the Ultimax configuration no cell of the default map depends on the lines of the CPU I/O port (R80, R82). -/
theorem defaultCell_ultimax {p q : PlaInputs} (hp : p.ultimax = true) (hq : q.ultimax = true) (r : BitVec 4) :
    defaultCell p r = defaultCell q r := by
  have hread (r : BitVec 4) : plaReadDefault p r = plaReadDefault q r := by
    simp only [plaReadDefault, hp, hq, Bool.true_or, if_true]
  simp only [defaultCell, hread, plaWriteDefault, hp, hq]

/-- Settles O16: the port's addresses reach `PORT`, and every other address its cell of the map, which the port's
lines do not enter. -/
theorem ultimaxIgnoresThePort : Obligations.UltimaxIgnoresThePort := by
  rintro ⟨ddr₀, data₀, cart, _, _⟩ ddr data a rfl rfl hexrom hgame
  by_cases ha : isPortAddr a = true
  · simp only [readBank, writeBank, if_pos ha, and_self]
  · have hultimax (ddr data : Byte) : (MapConfig.mk ddr data cart none none).inputs.ultimax = true :=
      Bool.and_eq_true_iff.2 ⟨hexrom, congrArg not hgame⟩
    have hcell := defaultCell_ultimax (hultimax ddr data) (hultimax ddr₀ data₀)
    simp only [readBank_default, writeBank_default, ha, hcell, and_self]

/-! ## `ADVANCE` while nothing falls due (R366) -/

theorem run_succ_of_step {s t : State} (h : step s = .next t) (k : Nat) :
    Sys2Proof.core.run (k + 1) s = Sys2Proof.core.run k t := by
  have hcore : Sys2Proof.core.step s = .next t := h
  simp only [Host.Core.run, hcore]

/-- A sweep with `rem` cycles to go ends after `rem + 1` sweep steps when nothing falls due in them (R147, R150). -/
theorem run_sweep_nothing_due {s : State} {rem : BitVec 64} (hst : s.stopped = false) (hs : s.sweep = .sweep rem)
    (hc : s.cycle.toNat + rem.toNat ≤ 2 ^ 64 - 1)
    (hdue : ∀ e ∈ s.queue, s.cycle.toNat + rem.toNat < e.target.toNat) :
    ∃ c : Cycle, c.toNat = s.cycle.toNat + rem.toNat ∧
      Sys2Proof.core.run (rem.toNat + 1) s =
        .next { s with cycle := c, sweep := .idle, output := s.output ++ [.done] } := by
  induction hk : rem.toNat generalizing s rem with
  | zero =>
    have hend := (sweepEndsWhenNothingIsDue s rem hst hs fun e he => by have := hdue e he; omega).1 hk
    exact ⟨s.cycle, rfl, run_succ_of_step hend 0⟩
  | succ k ih =>
    obtain ⟨c, rem', hcycle, hrem, hstep⟩ :=
      (sweepEndsWhenNothingIsDue s rem hst hs fun e he => by have := hdue e he; omega).2 (by omega) hc
    have hlast : c.toNat + rem'.toNat = s.cycle.toNat + rem.toNat := by omega
    obtain ⟨d, (hd : d.toNat = c.toNat + k), hrun⟩ := ih (s := { s with cycle := c, sweep := .sweep rem' }) hst rfl
      (hlast.trans_le hc) (fun e he => hlast.trans_lt (hdue e he)) (by omega)
    exact ⟨d, by omega, (run_succ_of_step hstep _).trans hrun⟩

/-- An `ADVANCE n` that starts leaves `max n 1` cycle values to visit, the last of them `n` cycles on (R146). -/
theorem exec_advance_sweeps {s : State} {n : BitVec 28} (hs : s.sweep = .idle)
    (hc : s.cycle.toNat + n.toNat ≤ 2 ^ 64 - 1) :
    ∃ c rem : BitVec 64, exec (.advance n) s = .next { s with cycle := c, sweep := .sweep rem } ∧
      rem.toNat + 1 = max n.toNat 1 ∧ c.toNat + rem.toNat = s.cycle.toNat + n.toNat := by
  obtain ⟨-, hzero, -, hstarts⟩ := advanceStartsTheSweep s n
  by_cases hn : n.toNat = 0
  · exact ⟨s.cycle, 0#64, hzero hs hn, by rw [hn]; rfl, by rw [hn]; rfl⟩
  · obtain ⟨c, rem, hcycle, hrem, hexec⟩ := hstarts hs hn hc
    exact ⟨c, rem, hexec, by omega, by omega⟩

/-- Settles O34: the `ADVANCE` starts a sweep that ends, with nothing due in it, by counting down its cycles. -/
theorem advanceWithNothingDue : Obligations.AdvanceWithNothingDue := by
  intro s n hst hs hc hdue
  obtain ⟨c, rem, hexec, hsteps, hlast⟩ := exec_advance_sweeps hs hc
  obtain ⟨d, hd, hrun⟩ := run_sweep_nothing_due (s := { s with cycle := c, sweep := .sweep rem }) hst rfl
    (hlast.trans_le hc) fun e he => hlast.trans_lt (hdue e he)
  refine ⟨_, d, hexec, hd.trans hlast, ?_⟩
  rw [← hsteps, hrun, ← hs]

end Sys2Proof.Machine
end
